-- ==== Sys2Proof/Word.lean ====
section
/-! DEFINITION. The byte (00_scope.md R6 `BYTE_W` = 8) and the sixteen-byte frame (20_memory.md R43: "a model should carry it as
a vector of sixteen bytes"). -/

namespace Sys2Proof

/-- A byte; bit 7 is the most significant (R8, R42). -/
abbrev Byte := BitVec 8

/-- A sixteen-byte value indexed by frame offset; offset 0 is the first byte to arrive (R41, R43, R60). -/
abbrev Frame := Vector Byte 16

end Sys2Proof
end

