-- ==== Sys2Proof/Syntax.lean ====
section
/-! DEFINITION. The values CORE outputs (Reading, DecodeError, the output ports), the formats of the opcode table's words, and
`Instr`: one constructor for each of the 48 rows of spec/opcode_table.json. -/

namespace Sys2Proof

/-- Status of byte 2 (43_frame_validator.md R147): "exactly four members". -/
inductive Status where
  | overload
  | stable
  | unstable
  | unknown
  deriving DecidableEq, Repr, Inhabited

/-- Status2 of byte 15 (R148): "exactly five members". `Status2.overload` is another thing than `Status.overload` (R64). -/
inductive Status2 where
  | none
  | zero
  | tare
  | overload
  | unknown
  deriving DecidableEq, Repr, Inhabited

/-- The closed error taxonomy (60_exceptions.md R190), in the order of the checks (R146, R196). -/
inductive DecodeError where
  | malformedLength
  | invalidMarkers
  | invalidSign
  | invalidUnits
  | checksumMismatch
  deriving DecidableEq, Repr

/-- The Reading (43_frame_validator.md R152). `weight` has 6 or 7 bytes (R149). -/
structure Reading where
  status     : Status
  weight     : List Byte
  units      : Vector Byte 2
  status2    : Status2
  isPositive : Bool
  deriving DecidableEq, Repr

/-- What `DECODE` answers: a Reading or exactly one DecodeError (R140). -/
inductive Decoded where
  | reading (r : Reading)
  | error (e : DecodeError)
  deriving DecidableEq, Repr

/-- One output event: a candidate frame with its classification (R170, R176). -/
structure Event where
  frame  : Frame
  result : Decoded
  deriving DecidableEq, Repr

/-- The output word of one beat (R170 `output`): a sum type, never a Reading beside an error (R175, D14). -/
inductive OutWord where
  | noEvent
  | event (e : Event)
  deriving DecidableEq, Repr

/-- The output ports of 44_core_top.md R171, at their widths. A one-bit port is a Bool. -/
structure Ports where
  inReady      : Bool
  outValid     : Bool
  outFrame     : Frame
  outOk        : Bool
  outErr       : BitVec 3
  rdStatus     : BitVec 2
  rdStatus2    : BitVec 3
  rdNeg        : Bool
  rdIsPositive : Bool
  rdDigits     : Vector Byte 6
  rdUnits      : Vector Byte 2
  deriving DecidableEq, Repr, Inhabited

/-- The four outcomes of a `PUSH` (41_frame_synchronizer.md R103). -/
inductive PushOutcome where
  | purge
  | wait
  | accept
  | resync
  deriving DecidableEq, Repr

/-- The bytes of a frame that are not fixed markers (30_encoding.md R60): offsets 2, 3, 4 to 9, 10 to 11, 12 and 15. -/
structure FrameFields where
  status  : Byte
  sign    : Byte
  digits  : Vector Byte 6
  units   : Vector Byte 2
  bcc     : Byte
  status2 : Byte
  deriving DecidableEq, Repr

/-- The formats of the opcode table whose words are sixteen bytes (column "format"; log 12): a plain FRAME128 pattern, a
FUNCTION of FRAME128, a CHECK of DECODE, or a FIELD at its offset. -/
inductive FrameFormat where
  | window
  | functionBcc
  | functionDecode
  | checkMarkers
  | checkSign
  | checkUnits
  | checkBcc
  | fieldSign
  | fieldStatus
  | fieldStatus2
  | fieldDigits
  | fieldUnits
  deriving DecidableEq, Repr

/-- A word of the opcode table in its own format: BEAT10 (R71), FRAME128 (R43), BYTE8 (R61), OUT_ERR3 (R72). -/
inductive Code where
  | beat (w : BitVec 10)
  | frame (format : FrameFormat) (v : BitVec 128)
  | byte (b : Byte)
  | errCode (c : BitVec 3)
  deriving DecidableEq, Repr

/-- Why a word is no row's encoding. -/
inductive DecodeReject where
  /-- A plain FRAME128 word whose byte 0 is not SOH: "A window never has `w[0] != 0x01`" (R68). -/
  | notAWindow
  /-- A sign field that is neither 0x2D nor 0x20: "There is no `'+'` sign value" (R62). -/
  | notASign
  /-- A units field with a byte above 0x7F (R66). -/
  | unitsNotAscii
  /-- A BYTE8 word that is none of the four markers (R61). -/
  | notAMarker
  /-- An `out_err` code 6 or 7: "never produced" (R72, U6). -/
  | codeNeverProduced
  deriving DecidableEq, Repr

/-- One constructor per row of spec/opcode_table.json, in the table's order (LAWS.json maps each to its mnemonic). -/
inductive Instr where
  | reset
  | push (b : Byte)
  | idle
  | corestep (rst inValid : Bool) (inData : Byte)
  | ingest (chunk : List Byte)
  | ingestref (chunk : List Byte)
  | pushAccept
  | pushResync
  | pushWait
  | pushPurge
  | append (b : Byte)
  | window
  | dropfront (n : Nat)
  | evict
  | clear
  | candidate (f : Frame)
  | falsestart (f : Frame)
  | frame (x : FrameFields)
  | decode (bytes : List Byte)
  | bcc (f : Frame)
  | checkLength (bytes : List Byte)
  | checkMarkers (f : Frame)
  | checkSign (f : Frame)
  | checkUnits (f : Frame)
  | checkBcc (f : Frame)
  | signMinus (f : Frame)
  | signSpace (f : Frame)
  | statusOverload (f : Frame)
  | statusStable (f : Frame)
  | statusUnstable (f : Frame)
  | statusUnknown (f : Frame)
  | status2None (f : Frame)
  | status2Zero (f : Frame)
  | status2Tare (f : Frame)
  | status2Overload (f : Frame)
  | status2Unknown (f : Frame)
  | weight (f : Frame)
  | units (f : Frame)
  | constSoh
  | constStx
  | constEtx
  | constEot
  | errNone
  | errMalformedLength
  | errInvalidMarkers
  | errInvalidSign
  | errInvalidUnits
  | errChecksumMismatch
  deriving DecidableEq, Repr

end Sys2Proof
end

