-- ==== Sys2Proof/Config.lean ====
section
/-! DEFINITION. The parameters of 00_scope.md R6 and the free values of the ports the spec leaves unspecified. None is configurable at
run time (R29). OUT_LATENCY is no constant here: it is the length of `State.pipe` (log 4). -/

namespace Sys2Proof.Config

/-- Start marker, frame offset 0 (R6, R61). -/
def SOH : Byte := 0x01
/-- Secondary start marker, frame offset 1 (R6, R61). -/
def STX : Byte := 0x02
/-- End marker, frame offset 13, and the checksum's final XOR operand (R6, R61, R132). -/
def ETX : Byte := 0x03
/-- End-of-transmission marker, frame offset 14 (R6, R61). -/
def EOT : Byte := 0x04
/-- Sign byte `'-'` (R6, R62). -/
def SIGN_MINUS : Byte := 0x2D
/-- Sign byte `' '` (R6, R62). -/
def SIGN_SPACE : Byte := 0x20
/-- Bytes in a frame (R6). -/
def FRAME_LEN : Nat := 16
/-- The checksum covers frame bytes `[0..12)` (R6, R132). -/
def BCC_SPAN : Nat := 12
/-- Cells in the accumulation buffer (R6, R21, D4). -/
def BUF_CAP : Nat := 16
/-- Status letter `F` (R63). PRESUMED by the spec itself (G1, general knowledge); log 13. -/
def STATUS_F : Byte := 0x46
/-- Status letter `S` (R63), which the source's own example confirms. -/
def STATUS_S : Byte := 0x53
/-- Status letter `U` (R63). PRESUMED by the spec itself (G1, general knowledge); log 13. -/
def STATUS_U : Byte := 0x55

/-- FREE VALUE (DESIGN CHOICE, log 5; safe): what the ports show at output beat `n` wherever the spec leaves them unspecified (R174, R175,
U2 "any value"). It has no body, so nothing can be proved of it. -/
opaque freePorts : Nat → Ports

end Sys2Proof.Config
end

