-- ==== Sys2Proof/WellFormed.lean ====
section
/-! DEFINITION. `Instr.wf`: the operands are ones the instruction's row admits (the row's pattern for a row that is a pattern, the
capacity for a count). An instruction with a word is well formed exactly when its own word reads back as it (Decode.lean). -/

namespace Sys2Proof

open Config

/-- A FRAME128 word that is a whole FRAME is read as FRAME, the more specific row (log 12); CANDIDATE then stands for the rest of
the windows that start `01 02` (R68). -/
def Instr.wf : Instr → Bool
  | .dropfront n => n ≤ BUF_CAP
  | .candidate f => f[0] == SOH && f[1] == STX && !(f[13] == ETX && f[14] == EOT)
  | .falsestart f => f[0] == SOH && f[1] != STX
  | .signMinus f => f[3] == SIGN_MINUS
  | .signSpace f => f[3] == SIGN_SPACE
  | .statusOverload f => f[2] == STATUS_F
  | .statusStable f => f[2] == STATUS_S
  | .statusUnstable f => f[2] == STATUS_U
  | .statusUnknown f => f[2] != STATUS_F && f[2] != STATUS_S && f[2] != STATUS_U
  | .status2None f => f[15] == 0x00
  | .status2Zero f => f[15] == 0x10
  | .status2Tare f => f[15] == 0x20
  | .status2Overload f => f[15] == 0x40
  | .status2Unknown f => f[15] != 0x00 && f[15] != 0x10 && f[15] != 0x20 && f[15] != 0x40
  | .units f => !f[10].getLsbD 7 && !f[11].getLsbD 7
  | .reset | .push _ | .idle | .corestep _ _ _ | .ingest _ | .ingestref _ => true
  | .pushAccept | .pushResync | .pushWait | .pushPurge => true
  | .append _ | .window | .evict | .clear => true
  | .frame _ | .decode _ | .bcc _ | .weight _ => true
  | .checkLength _ | .checkMarkers _ | .checkSign _ | .checkUnits _ | .checkBcc _ => true
  | .constSoh | .constStx | .constEtx | .constEot => true
  | .errNone | .errMalformedLength | .errInvalidMarkers => true
  | .errInvalidSign | .errInvalidUnits | .errChecksumMismatch => true

end Sys2Proof
end

