-- ==== Sys2Proof/Decode.lean ====
section
/-! DEFINITION. The decoder, total on every word of every format of the opcode table and rejecting by name, and after it the encoder,
both from 30_encoding.md (R43, R60 to R66, R68, R71, R72). Rows without an encoding ("encoding: none") have no word: log 12. -/

namespace Sys2Proof

open Config

/-- Byte `k` of a flat frame: "offset `k` occupies bits `[127-8k : 120-8k]`" (R60, R43). -/
def byteLane (v : BitVec 128) (k : Nat) : Byte := v.extractLsb' (120 - 8 * k) 8

/-- The sixteen lanes of a flat frame (R43). -/
def unpackFrame (v : BitVec 128) : Frame :=
  #v[byteLane v 0, byteLane v 1, byteLane v 2, byteLane v 3, byteLane v 4, byteLane v 5, byteLane v 6, byteLane v 7,
     byteLane v 8, byteLane v 9, byteLane v 10, byteLane v 11, byteLane v 12, byteLane v 13, byteLane v 14, byteLane v 15]

/-- Byte `b` placed at offset `k` of a flat frame (R60). -/
def placeLane (b : Byte) (k : Nat) : BitVec 128 := b.setWidth 128 <<< (120 - 8 * k)

/-- The flat form of a frame, byte 0 most significant (R43). -/
def packFrame (f : Frame) : BitVec 128 :=
  placeLane f[0] 0 ||| placeLane f[1] 1 ||| placeLane f[2] 2 ||| placeLane f[3] 3 |||
  placeLane f[4] 4 ||| placeLane f[5] 5 ||| placeLane f[6] 6 ||| placeLane f[7] 7 |||
  placeLane f[8] 8 ||| placeLane f[9] 9 ||| placeLane f[10] 10 ||| placeLane f[11] 11 |||
  placeLane f[12] 12 ||| placeLane f[13] 13 ||| placeLane f[14] 14 ||| placeLane f[15] 15

/-- A byte sequence as a frame, when it has sixteen bytes (R45, R92). -/
def Frame.ofBytes? (bytes : List Byte) : Option Frame :=
  if h : bytes.length = 16 then some ⟨bytes.toArray, by simpa using h⟩ else none

/-- The frame of R60's table with the given free fields. -/
def FrameFields.layout (x : FrameFields) : Frame :=
  #v[SOH, STX, x.status, x.sign, x.digits[0], x.digits[1], x.digits[2], x.digits[3], x.digits[4], x.digits[5],
     x.units[0], x.units[1], x.bcc, ETX, EOT, x.status2]

/-- The free fields of a frame, each from its offset in R60's table. -/
def FrameFields.ofFrame (f : Frame) : FrameFields where
  status  := f[2]
  sign    := f[3]
  digits  := #v[f[4], f[5], f[6], f[7], f[8], f[9]]
  units   := #v[f[10], f[11]]
  bcc     := f[12]
  status2 := f[15]

/-- An input word `{rst, in_valid, in_data}` (R71): `rst = 1` is RESET whatever the other bits (R212). -/
def decodeBeat (w : BitVec 10) : Instr :=
  if w.getLsbD 9 then .reset
  else if w.getLsbD 8 then .push (w.extractLsb' 0 8)
  else .idle

/-- A plain FRAME128 word, the most specific row first (R60, R68; log 12). -/
def decodeWindow (f : Frame) : Except DecodeReject Instr :=
  if f[0] ≠ SOH then .error .notAWindow
  else if f[1] ≠ STX then .ok (.falsestart f)
  else if f[13] = ETX ∧ f[14] = EOT then .ok (.frame (.ofFrame f))
  else .ok (.candidate f)

/-- The sign field's row (R62). -/
def decodeSign (f : Frame) : Except DecodeReject Instr :=
  if f[3] = SIGN_MINUS then .ok (.signMinus f)
  else if f[3] = SIGN_SPACE then .ok (.signSpace f)
  else .error .notASign

/-- The status field's row (R63), every byte having one. -/
def decodeStatus (f : Frame) : Instr :=
  if f[2] = STATUS_F then .statusOverload f
  else if f[2] = STATUS_S then .statusStable f
  else if f[2] = STATUS_U then .statusUnstable f
  else .statusUnknown f

/-- The status2 field's row (R64), by equality of the whole byte. -/
def decodeStatus2 (f : Frame) : Instr :=
  if f[15] = 0x00 then .status2None f
  else if f[15] = 0x10 then .status2Zero f
  else if f[15] = 0x20 then .status2Tare f
  else if f[15] = 0x40 then .status2Overload f
  else .status2Unknown f

/-- The units field's row (R66): both bytes ASCII-decodable, or no row. -/
def decodeUnits (f : Frame) : Except DecodeReject Instr :=
  if f[10].getLsbD 7 || f[11].getLsbD 7 then .error .unitsNotAscii else .ok (.units f)

/-- A sixteen-byte word in the format it is given in. -/
def decodeFrameWord (format : FrameFormat) (f : Frame) : Except DecodeReject Instr :=
  match format with
  | .window => decodeWindow f
  | .functionBcc => .ok (.bcc f)
  | .functionDecode => .ok (.decode f.toList)
  | .checkMarkers => .ok (.checkMarkers f)
  | .checkSign => .ok (.checkSign f)
  | .checkUnits => .ok (.checkUnits f)
  | .checkBcc => .ok (.checkBcc f)
  | .fieldSign => decodeSign f
  | .fieldStatus => .ok (decodeStatus f)
  | .fieldStatus2 => .ok (decodeStatus2 f)
  | .fieldDigits => .ok (.weight f)
  | .fieldUnits => decodeUnits f

/-- A BYTE8 word (R61). -/
def decodeByte (b : Byte) : Except DecodeReject Instr :=
  if b = SOH then .ok .constSoh
  else if b = STX then .ok .constStx
  else if b = ETX then .ok .constEtx
  else if b = EOT then .ok .constEot
  else .error .notAMarker

/-- An `out_err` code (R72). -/
def decodeErrCode (c : BitVec 3) : Except DecodeReject Instr :=
  if c = 0 then .ok .errNone
  else if c = 1 then .ok .errMalformedLength
  else if c = 2 then .ok .errInvalidMarkers
  else if c = 3 then .ok .errInvalidSign
  else if c = 4 then .ok .errInvalidUnits
  else if c = 5 then .ok .errChecksumMismatch
  else .error .codeNeverProduced

/-- The instruction a word stands for, or the reason that no row has it. -/
def decode : Code → Except DecodeReject Instr
  | .beat w => .ok (decodeBeat w)
  | .frame format v => decodeFrameWord format (unpackFrame v)
  | .byte b => decodeByte b
  | .errCode c => decodeErrCode c

/-- The input word with the given parts (R71). -/
def beatWord (rst inValid : Bool) (inData : Byte) : BitVec 10 :=
  BitVec.ofBool rst ++ BitVec.ofBool inValid ++ inData

/-- The word of an instruction, don't-care bits zero as 95_test_vectors.md section 7 writes them; `none` where the spec gives the row
no encoding of its own (INGEST, INGESTREF, the outcomes, the primitives, CHECK.LENGTH, DECODE of a sequence that has not
sixteen bytes) and for CORESTEP, whose word is read as the operation it selects (R170). -/
def encode : Instr → Option Code
  | .reset => some (.beat (beatWord true false 0))
  | .push b => some (.beat (beatWord false true b))
  | .idle => some (.beat (beatWord false false 0))
  | .candidate f => some (.frame .window (packFrame f))
  | .falsestart f => some (.frame .window (packFrame f))
  | .frame x => some (.frame .window (packFrame x.layout))
  | .decode bytes => (Frame.ofBytes? bytes).map fun f => .frame .functionDecode (packFrame f)
  | .bcc f => some (.frame .functionBcc (packFrame f))
  | .checkMarkers f => some (.frame .checkMarkers (packFrame f))
  | .checkSign f => some (.frame .checkSign (packFrame f))
  | .checkUnits f => some (.frame .checkUnits (packFrame f))
  | .checkBcc f => some (.frame .checkBcc (packFrame f))
  | .signMinus f => some (.frame .fieldSign (packFrame f))
  | .signSpace f => some (.frame .fieldSign (packFrame f))
  | .statusOverload f => some (.frame .fieldStatus (packFrame f))
  | .statusStable f => some (.frame .fieldStatus (packFrame f))
  | .statusUnstable f => some (.frame .fieldStatus (packFrame f))
  | .statusUnknown f => some (.frame .fieldStatus (packFrame f))
  | .status2None f => some (.frame .fieldStatus2 (packFrame f))
  | .status2Zero f => some (.frame .fieldStatus2 (packFrame f))
  | .status2Tare f => some (.frame .fieldStatus2 (packFrame f))
  | .status2Overload f => some (.frame .fieldStatus2 (packFrame f))
  | .status2Unknown f => some (.frame .fieldStatus2 (packFrame f))
  | .weight f => some (.frame .fieldDigits (packFrame f))
  | .units f => some (.frame .fieldUnits (packFrame f))
  | .constSoh => some (.byte 0x01)
  | .constStx => some (.byte 0x02)
  | .constEtx => some (.byte 0x03)
  | .constEot => some (.byte 0x04)
  | .errNone => some (.errCode 0)
  | .errMalformedLength => some (.errCode 1)
  | .errInvalidMarkers => some (.errCode 2)
  | .errInvalidSign => some (.errCode 3)
  | .errInvalidUnits => some (.errCode 4)
  | .errChecksumMismatch => some (.errCode 5)
  | .corestep _ _ _ | .ingest _ | .ingestref _ => none
  | .pushAccept | .pushResync | .pushWait | .pushPurge => none
  | .append _ | .window | .dropfront _ | .evict | .clear | .checkLength _ => none

/-- Did the decoder read an instruction? -/
def decodes (c : Code) : Bool :=
  match decode c with
  | .ok _ => true
  | .error _ => false

/-- The format in which an `nbits` word of the opcode table is read, where its width alone does not say which (DESIGN CHOICE, log 12).
Ten wires (in two bytes): BEAT10. Three wires: OUT_ERR3. One byte: BYTE8, else an OUT_ERR3 code, else the status2 byte.
Sixteen bytes: a window, else the sign, the status or the status2 field that the word spells. -/
def tableCode (nbits w : Nat) : Code :=
  if nbits = 10 ∨ nbits = 16 then .beat (BitVec.ofNat 10 w)
  else if nbits = 3 then .errCode (BitVec.ofNat 3 w)
  else if nbits = 8 then
    if decodes (.byte (BitVec.ofNat 8 w)) then .byte (BitVec.ofNat 8 w)
    else if w < 6 then .errCode (BitVec.ofNat 3 w)
    else .frame .fieldStatus2 (BitVec.ofNat 128 w)
  else
    let v := BitVec.ofNat 128 w
    if decodes (.frame .window v) then .frame .window v
    else if decodes (.frame .fieldSign v) then .frame .fieldSign v
    else if (decodeStatus (unpackFrame v)) ≠ .statusUnknown (unpackFrame v) then .frame .fieldStatus v
    else .frame .fieldStatus2 v

/-- The instruction the decoder reads from a word of the opcode table, numbered as the table numbers its bits. -/
def decodeTableWord (nbits w : Nat) : Option Instr :=
  match decode (tableCode nbits w) with
  | .ok i => some i
  | .error _ => none

end Sys2Proof
end

