-- ==== Sys2Proof/Machine/State.lean ====
section
/-! DEFINITION. The machine's state, its fault and refusal reasons, and the state after reset. `buf` and `pipe` are the state of
CORE (R20, R32); `refBuf` is the reference loop's (R101); `input`, `outs`, `result` and `draws` are the model's own, the
boundary with the environment (log 1, 2, 3, 5): no operation of CORE reads the last three. -/

namespace Sys2Proof.Machine

/-- What the last instruction answered, where it answers a value (log 3). -/
inductive Result where
  | nothing
  /-- A PUSH or an outcome row that was taken (R103). -/
  | outcome (o : PushOutcome)
  /-- An outcome row whose condition does not hold (log 10). -/
  | notTaken
  /-- A sixteen-byte value: WINDOW (R92), FRAME (R60). -/
  | frame (f : Frame)
  /-- The frames an INGEST or an INGESTREF returns, in arrival order (R108, R101). -/
  | frames (fs : List Frame)
  /-- Whether a sixteen-byte value has a pattern (R68). -/
  | matched (b : Bool)
  /-- DECODE (R153). -/
  | decoded (d : Decoded)
  /-- BCC (R130). -/
  | checksum (b : Byte)
  /-- One check of DECODE: its error, or `none` where it passes (R141 to R145). -/
  | verdict (e : Option DecodeError)
  /-- A sign row: isPositive, `rd_neg`, and what is prepended to the weight (R62). -/
  | sign (isPositive rdNeg : Bool) (prepended : List Byte)
  /-- A status row with its `rd_status` code (R63, R73). -/
  | status (v : Status) (code : BitVec 2)
  /-- A status2 row with its `rd_status2` code (R64, R73). -/
  | status2 (v : Status2) (code : BitVec 3)
  /-- The six weight bytes, `rd_digits` (R65). -/
  | digits (ds : Vector Byte 6)
  /-- The two units bytes, `rd_units` (R66). -/
  | units (us : Vector Byte 2)
  /-- A field row whose byte the frame does not hold. -/
  | noMatch
  /-- A marker constant and its frame offset (R61). -/
  | marker (value : Byte) (offset : Nat)
  /-- An error code with its `out_ok` and the class it stands for (R72). -/
  | errPort (outErr : BitVec 3) (outOk : Bool) (err : Option DecodeError)
  deriving DecidableEq, Repr

/-- The whole state of one CORE instance and its boundary. -/
structure State where
  /-- The accumulation buffer, oldest byte first (R20, R21, R22). -/
  buf    : List Byte
  /-- The OUT_LATENCY output words on their way to the ports, next one first; its length is OUT_LATENCY (R173, R211; log 4). -/
  pipe   : List OutWord
  /-- The output words of the beats the last instruction took, oldest first (R170, R173; log 2). -/
  outs   : List OutWord
  /-- The value the last instruction answered (log 3). -/
  result : Result
  /-- The list `L` of the reference loop INGESTREF (R101; log 6). -/
  refBuf : List Byte
  /-- What the environment presents, next word first (R178; log 1). -/
  input  : List Code
  /-- How many output beats have passed: the index of the free port values (R174, R175; log 5). -/
  draws  : Nat
  deriving DecidableEq, Repr

/-- CORE has no fault: "*Fault*: none exists in CORE" (60_exceptions.md R206, R198), so this type has no constructor and nothing raises
one. Safe: it removes no behaviour. -/
inductive Fault
  deriving DecidableEq, Repr

/-- Why a step is refused. -/
inductive Refusal where
  /-- An arm of `exec` without a meaning; no arm is. Safe. -/
  | notModelled (mnemonic : String)
  /-- PUSH, CORESTEP (as a PUSH) and INGEST, in a state that violates the rest invariant of R22: "a launch state that does not meet the
  invariant" is refused (R178, R206, R213). Safe: no run from reset meets it (log 8). -/
  | notAtRest
  /-- APPEND with sixteen bytes held (R91's precondition, R96). Safe (log 9). -/
  | bufferFull
  /-- WINDOW without exactly sixteen bytes held (R92's precondition). Safe (log 9). -/
  | windowNotFull
  /-- DROPFRONT of more bytes than are held (R93's operand range). Safe (log 9). -/
  | dropPastEnd
  /-- The step: the word presented is no row's encoding. Safe (log 12). -/
  | noRow (why : DecodeReject)
  deriving DecidableEq, Repr

/-- The machine right after a RESET beat (R210, R211): the buffer empty, `out_valid` 0 in that beat. `pipe = []` is OUT_LATENCY = 0
(DESIGN CHOICE, log 4); the model's own fields start as log 1, 3, 5, 6 say. -/
def State.reset : State where
  buf    := []
  pipe   := []
  outs   := [.noEvent]
  result := .nothing
  refBuf := []
  input  := []
  draws  := 1

end Sys2Proof.Machine
end

