-- ==== Sys2Proof/Machine/Operands.lean ====
section
/-! DEFINITION. The operand forms: the parts of a frame (30_encoding.md R60 to R68) and the values assembled from them (R77). -/

namespace Sys2Proof.Machine

open Config

/-- The six weight digit bytes, offsets 4 to 9 (R65). -/
def digitsOf (f : Frame) : Vector Byte 6 := #v[f[4], f[5], f[6], f[7], f[8], f[9]]

/-- The two units bytes, offsets 10 and 11 (R66, R151). -/
def unitsOf (f : Frame) : Vector Byte 2 := #v[f[10], f[11]]

/-- "A byte is ASCII-decodable exactly when … its bit 7 is 0" (R66). PRESUMED by the spec itself (G2, D10); log 14. -/
def asciiDecodable (b : Byte) : Bool := !b.getLsbD 7

/-- The sign byte is `'-'` (R62; `rd_neg`, R74). -/
def negOf (f : Frame) : Bool := f[3] == SIGN_MINUS

/-- What the sign byte prepends to the weight (R62, R149). -/
def signChars (f : Frame) : List Byte := if negOf f then [SIGN_MINUS] else []

/-- The weight string (R149, R77). -/
def weightOf (f : Frame) : List Byte := signChars f ++ (digitsOf f).toList

/-- `isPositive` is `sign != 0x2D` (R150). -/
def isPositiveOf (f : Frame) : Bool := f[3] != SIGN_MINUS

/-- The start-marker test, R68's candidate pattern: bytes 2 to 15 are not examined. -/
def isCandidate (f : Frame) : Bool := f[0] == SOH && f[1] == STX

/-- R68's false start. -/
def isFalseStart (f : Frame) : Bool := f[0] == SOH && f[1] != STX

/-- The status map (R63, R147); letters in capitals only (D20). -/
def statusOf (f : Frame) : Status :=
  if f[2] = STATUS_F then .overload
  else if f[2] = STATUS_S then .stable
  else if f[2] = STATUS_U then .unstable
  else .unknown

/-- The status2 map, by equality of the whole byte (R64, R148; 90_conflicts.md C3). -/
def status2Of (f : Frame) : Status2 :=
  if f[15] = 0x00 then .none
  else if f[15] = 0x10 then .zero
  else if f[15] = 0x20 then .tare
  else if f[15] = 0x40 then .overload
  else .unknown

/-- The Reading of a frame that passed the five checks (R147 to R152). -/
def readingOf (f : Frame) : Reading where
  status     := statusOf f
  weight     := weightOf f
  units      := unitsOf f
  status2    := status2Of f
  isPositive := isPositiveOf f

end Sys2Proof.Machine
end

