-- ==== Sys2Proof/Machine/Flags.lean ====
section
/-! DEFINITION. CORE holds no flags (R28). What it computes about a frame instead: the checksum (42_bcc_xor_checksum.md), the five checks and
DECODE (43_frame_validator.md), and the numeric codes of the results (R72, R73). -/

namespace Sys2Proof.Machine

open Config

/-- `BCC(f)`: XOR of bytes 0 to 11, then XOR ETX (R130, R132). -/
def bccOf (f : Frame) : Byte := (f.toList.take BCC_SPAN).foldl (fun x b => x ^^^ b) 0x00 ^^^ ETX

/-- Check 1, length (R141). -/
def checkLength (bytes : List Byte) : Option DecodeError :=
  if bytes.length = FRAME_LEN then none else some .malformedLength

/-- Check 2, markers at offsets 0, 1, 13, 14 (R142). -/
def checkMarkers (f : Frame) : Option DecodeError :=
  if f[0] = SOH ∧ f[1] = STX ∧ f[13] = ETX ∧ f[14] = EOT then none else some .invalidMarkers

/-- Check 3, sign (R143). -/
def checkSign (f : Frame) : Option DecodeError :=
  if f[3] = SIGN_MINUS ∨ f[3] = SIGN_SPACE then none else some .invalidSign

/-- Check 4, units (R144). -/
def checkUnits (f : Frame) : Option DecodeError :=
  if asciiDecodable f[10] && asciiDecodable f[11] then none else some .invalidUnits

/-- Check 5, checksum (R145, R133). -/
def checkBcc (f : Frame) : Option DecodeError :=
  if f[12] = bccOf f then none else some .checksumMismatch

/-- The first failing check after the length, in the order of R146. -/
def firstError (f : Frame) : Option DecodeError :=
  checkMarkers f <|> checkSign f <|> checkUnits f <|> checkBcc f

/-- `DECODE(f)` on a byte sequence of any length (R153, R141, R146). -/
def decodeBytes (bytes : List Byte) : Decoded :=
  match Frame.ofBytes? bytes with
  | none => .error .malformedLength
  | some f =>
    match firstError f with
    | some e => .error e
    | none => .reading (readingOf f)

/-- `out_err` (R72): 0 where the decode succeeded. -/
def errCodeOf : Option DecodeError → BitVec 3
  | none => 0
  | some .malformedLength => 1
  | some .invalidMarkers => 2
  | some .invalidSign => 3
  | some .invalidUnits => 4
  | some .checksumMismatch => 5

/-- `rd_status` (R73). -/
def statusCode : Status → BitVec 2
  | .overload => 0
  | .stable => 1
  | .unstable => 2
  | .unknown => 3

/-- `rd_status2` (R73). -/
def status2Code : Status2 → BitVec 3
  | .none => 0
  | .zero => 1
  | .tare => 2
  | .overload => 3
  | .unknown => 4

end Sys2Proof.Machine
end

