-- ==== Sys2Proof/Machine/Ops.lean ====
section
/-! DEFINITION. The shared operations: the buffer primitives as functions on byte sequences (40_byte_accumulator.md), the decision of a PUSH
(41_frame_synchronizer.md R102, R103), the output word of a beat (44_core_top.md R170, R173) and the beats. CORE has no exceptions to enter
or leave (60_exceptions.md R199, R200, R203): there is no such operation here. -/

namespace Sys2Proof.Machine

open Config

/-- `EVICT` on a byte sequence: "`dropWhile(b != SOH, buf)`" (R94). -/
def evictBytes (bytes : List Byte) : List Byte := bytes.dropWhile (fun b => b != SOH)

/-- The first byte, if any, is SOH: what `EVICT` leaves (R94). -/
def startsAtSoh : List Byte → Bool
  | [] => true
  | b :: _ => b == SOH

/-- The rest invariant of R22. -/
def atRest (bytes : List Byte) : Bool := bytes.length < BUF_CAP && startsAtSoh bytes

/-- What a PUSH may hold between its first EVICT and its decision (R102): at most sixteen bytes, none or from an SOH. -/
def heldForDecision (bytes : List Byte) : Bool := bytes.length ≤ BUF_CAP && startsAtSoh bytes

/-- A PUSH's new buffer, outcome and emission (R102). -/
structure PushStep where
  buf     : List Byte
  outcome : PushOutcome
  emitted : Option Frame
  deriving DecidableEq, Repr

/-- The decision of R102 on what is held after APPEND and EVICT: the branches of R103. -/
def resolve (held : List Byte) : PushStep :=
  match Frame.ofBytes? held with
  | none => { buf := held, outcome := if held = [] then .purge else .wait, emitted := none }
  | some w =>
    if w[1] = STX then { buf := held.drop FRAME_LEN, outcome := .accept, emitted := some w }
    else { buf := evictBytes (held.drop 1), outcome := .resync, emitted := none }

/-- `PUSH(b)` on the buffer (R102): APPEND, EVICT, decide. -/
def pushBytes (bytes : List Byte) (b : Byte) : PushStep := resolve (evictBytes (bytes ++ [b]))

/-- The output word of a beat that emitted `w`, or nothing (R170). -/
def outWordOf : Option Frame → OutWord
  | none => .noEvent
  | some w => .event { frame := w, result := decodeBytes w.toList }

/-- One output beat (R173): `w` enters the OUT_LATENCY pipeline behind what is in it, and the front of it is presented. -/
def present (w : OutWord) (s : State) : State :=
  { s with outs := (s.pipe ++ [w]).take 1, pipe := (s.pipe ++ [w]).drop 1, draws := s.draws + 1 }

/-- An instruction that takes no beat and answers a value. -/
def answer (r : Result) (s : State) : State := { s with outs := [], result := r }

/-- The RESET beat (R210, R211): CLEAR, no event, and every event still in the pipeline cancelled. -/
def resetBeat (s : State) : State :=
  { s with
    buf := []
    pipe := List.replicate s.pipe.length .noEvent
    outs := [.noEvent]
    result := .nothing
    draws := s.draws + 1 }

/-- The IDLE beat (R172): no state change, no event caused. -/
def idleBeat (s : State) : State := { present .noEvent s with result := .nothing }

/-- What a PUSH beat makes of a state at rest (R102, R170): the new buffer, the output word presented, the outcome answered. -/
def pushState (b : Byte) (s : State) : State :=
  { present (outWordOf (pushBytes s.buf b).emitted) s with
    buf := (pushBytes s.buf b).buf
    result := .outcome (pushBytes s.buf b).outcome }

/-- The PUSH beat (R102, R170), refused in a state that violates the rest invariant (R178, R206). -/
def pushBeat (b : Byte) (s : State) : Host.Outcome State Fault Refusal :=
  if atRest s.buf then .next (pushState b s) else .refused .notAtRest

/-- The frames an answer returns. -/
def Result.returned : Result → List Frame
  | .frames fs => fs
  | _ => []

/-- `INGEST` (R108): a PUSH beat for each byte in order; it answers the frames emitted and shows the output words of all its beats. -/
def ingestBeats : List Byte → State → Host.Outcome State Fault Refusal
  | [], s => .next (answer (.frames []) s)
  | b :: bs, s =>
    match pushBeat b s with
    | .next t =>
      match ingestBeats bs t with
      | .next u =>
        .next { u with
          outs := t.outs ++ u.outs
          result := .frames ((pushBytes s.buf b).emitted.toList ++ u.result.returned) }
      | .fault e => .fault e
      | .refused r => .refused r
    | .fault e => .fault e
    | .refused r => .refused r

/-- The branch of a PUSH that an outcome row names, taken on what is held after APPEND and EVICT (R103 to R107) with the beat's output
word; where its condition does not hold the branch is not taken (DESIGN CHOICE, log 10). -/
def takeOutcome (o : PushOutcome) (s : State) : State :=
  if heldForDecision s.buf && (resolve s.buf).outcome = o then
    { present (outWordOf (resolve s.buf).emitted) s with buf := (resolve s.buf).buf, result := .outcome o }
  else answer .notTaken s

/-- A field row's answer, where the frame holds the row's byte. -/
def fieldRow (holds : Bool) (r : Result) (s : State) : State := answer (if holds then r else .noMatch) s

end Sys2Proof.Machine
end

