-- ==== Sys2Proof/Machine/Accumulator.lean ====
section
/-! DEFINITION. The five primitives of byte_accumulator (40_byte_accumulator.md R91 to R95), refused outside their preconditions (log 9). -/

namespace Sys2Proof.Machine

open Config

/-- `APPEND(b)` (R91); precondition `len(buf) <= 15`. -/
def execAppend (b : Byte) (s : State) : Host.Outcome State Fault Refusal :=
  if s.buf.length < BUF_CAP then .next (answer .nothing { s with buf := s.buf ++ [b] }) else .refused .bufferFull

/-- `WINDOW()` (R92); precondition `len(buf) == 16`. The window is a copy: `buf` does not change. -/
def execWindow (s : State) : Host.Outcome State Fault Refusal :=
  match Frame.ofBytes? s.buf with
  | some w => .next (answer (.frame w) s)
  | none => .refused .windowNotFull

/-- `DROPFRONT(n)` (R93), `0 <= n <= len(buf)`. -/
def execDropfront (n : Nat) (s : State) : Host.Outcome State Fault Refusal :=
  if n ≤ s.buf.length then .next (answer .nothing { s with buf := s.buf.drop n }) else .refused .dropPastEnd

/-- `EVICT()` (R94). -/
def execEvict (s : State) : Host.Outcome State Fault Refusal :=
  .next (answer .nothing { s with buf := evictBytes s.buf })

/-- `CLEAR()` (R95). -/
def execClear (s : State) : Host.Outcome State Fault Refusal := .next (answer .nothing { s with buf := [] })

end Sys2Proof.Machine
end

