-- ==== Sys2Proof/Machine/Beats.lean ====
section
/-! DEFINITION. The input beats (44_core_top.md R170 to R172) and INGEST (41_frame_synchronizer.md R108). -/

namespace Sys2Proof.Machine

/-- `RESET` (R210). -/
def execReset (s : State) : Host.Outcome State Fault Refusal := .next (resetBeat s)

/-- `PUSH(b)` (R102), its candidate decoded in the same beat (R170). -/
def execPush (b : Byte) (s : State) : Host.Outcome State Fault Refusal := pushBeat b s

/-- `IDLE` (R172). -/
def execIdle (s : State) : Host.Outcome State Fault Refusal := .next (idleBeat s)

/-- `CORESTEP(rst, in_valid, in_data)` (R170): reset before data (R212), data before idle. -/
def execCorestep (rst inValid : Bool) (inData : Byte) (s : State) : Host.Outcome State Fault Refusal :=
  if rst then .next (resetBeat s)
  else if inValid then pushBeat inData s
  else .next (idleBeat s)

/-- `INGEST(chunk)` (R108). -/
def execIngest (chunk : List Byte) (s : State) : Host.Outcome State Fault Refusal := ingestBeats chunk s

end Sys2Proof.Machine
end

