-- ==== Sys2Proof/Machine/Codes.lean ====
section
/-! DEFINITION. The marker constants (30_encoding.md R61, with their offsets of R60) and the error codes (R72; 60_exceptions.md R190 to R195). -/

namespace Sys2Proof.Machine

open Config

/-- SOH, offset 0 (R61). -/
def execConstSoh (s : State) : Host.Outcome State Fault Refusal := .next (answer (.marker SOH 0) s)

/-- STX, offset 1 (R61). -/
def execConstStx (s : State) : Host.Outcome State Fault Refusal := .next (answer (.marker STX 1) s)

/-- ETX, offset 13 (R61). -/
def execConstEtx (s : State) : Host.Outcome State Fault Refusal := .next (answer (.marker ETX 13) s)

/-- EOT, offset 14 (R61). -/
def execConstEot (s : State) : Host.Outcome State Fault Refusal := .next (answer (.marker EOT 14) s)

/-- What `out_err` and `out_ok` show for a result (R72, R175). -/
def errPortOf (e : Option DecodeError) : Result := .errPort (errCodeOf e) e.isNone e

/-- Code 0: the decode succeeded (R72). -/
def execErrNone (s : State) : Host.Outcome State Fault Refusal := .next (answer (errPortOf none) s)

/-- Code 1 (R191). -/
def execErrMalformedLength (s : State) : Host.Outcome State Fault Refusal :=
  .next (answer (errPortOf (some .malformedLength)) s)

/-- Code 2 (R192). -/
def execErrInvalidMarkers (s : State) : Host.Outcome State Fault Refusal :=
  .next (answer (errPortOf (some .invalidMarkers)) s)

/-- Code 3 (R193). -/
def execErrInvalidSign (s : State) : Host.Outcome State Fault Refusal := .next (answer (errPortOf (some .invalidSign)) s)

/-- Code 4 (R194). -/
def execErrInvalidUnits (s : State) : Host.Outcome State Fault Refusal := .next (answer (errPortOf (some .invalidUnits)) s)

/-- Code 5 (R195). -/
def execErrChecksumMismatch (s : State) : Host.Outcome State Fault Refusal :=
  .next (answer (errPortOf (some .checksumMismatch)) s)

end Sys2Proof.Machine
end

