-- ==== Sys2Proof/Machine/Fields.lean ====
section
/-! DEFINITION. The field rows (30_encoding.md R62 to R66, R73): what a row's byte means, `noMatch` where the frame holds another byte. -/

namespace Sys2Proof.Machine

open Config

/-- Sign 0x2D (R62): `isPositive` false, `rd_neg` 1, `'-'` prepended. -/
def execSignMinus (f : Frame) (s : State) : Host.Outcome State Fault Refusal :=
  .next (fieldRow (f[3] == SIGN_MINUS) (.sign (isPositiveOf f) (negOf f) (signChars f)) s)

/-- Sign 0x20 (R62): `isPositive` true, `rd_neg` 0, nothing prepended. -/
def execSignSpace (f : Frame) (s : State) : Host.Outcome State Fault Refusal :=
  .next (fieldRow (f[3] == SIGN_SPACE) (.sign (isPositiveOf f) (negOf f) (signChars f)) s)

/-- Status 0x46 (R63). -/
def execStatusOverload (f : Frame) (s : State) : Host.Outcome State Fault Refusal :=
  .next (fieldRow (statusOf f == .overload) (.status .overload (statusCode .overload)) s)

/-- Status 0x53 (R63). -/
def execStatusStable (f : Frame) (s : State) : Host.Outcome State Fault Refusal :=
  .next (fieldRow (statusOf f == .stable) (.status .stable (statusCode .stable)) s)

/-- Status 0x55 (R63). -/
def execStatusUnstable (f : Frame) (s : State) : Host.Outcome State Fault Refusal :=
  .next (fieldRow (statusOf f == .unstable) (.status .unstable (statusCode .unstable)) s)

/-- Any other status byte (R63). -/
def execStatusUnknown (f : Frame) (s : State) : Host.Outcome State Fault Refusal :=
  .next (fieldRow (statusOf f == .unknown) (.status .unknown (statusCode .unknown)) s)

/-- Status2 0x00 (R64). -/
def execStatus2None (f : Frame) (s : State) : Host.Outcome State Fault Refusal :=
  .next (fieldRow (status2Of f == .none) (.status2 .none (status2Code .none)) s)

/-- Status2 0x10 (R64). -/
def execStatus2Zero (f : Frame) (s : State) : Host.Outcome State Fault Refusal :=
  .next (fieldRow (status2Of f == .zero) (.status2 .zero (status2Code .zero)) s)

/-- Status2 0x20 (R64). -/
def execStatus2Tare (f : Frame) (s : State) : Host.Outcome State Fault Refusal :=
  .next (fieldRow (status2Of f == .tare) (.status2 .tare (status2Code .tare)) s)

/-- Status2 0x40 (R64). -/
def execStatus2Overload (f : Frame) (s : State) : Host.Outcome State Fault Refusal :=
  .next (fieldRow (status2Of f == .overload) (.status2 .overload (status2Code .overload)) s)

/-- Any other status2 byte (R64). -/
def execStatus2Unknown (f : Frame) (s : State) : Host.Outcome State Fault Refusal :=
  .next (fieldRow (status2Of f == .unknown) (.status2 .unknown (status2Code .unknown)) s)

/-- The weight bytes, any six, unchecked (R65). -/
def execWeight (f : Frame) (s : State) : Host.Outcome State Fault Refusal := .next (answer (.digits (digitsOf f)) s)

/-- The units bytes, each 0x00 to 0x7F (R66). -/
def execUnits (f : Frame) (s : State) : Host.Outcome State Fault Refusal :=
  .next (fieldRow (asciiDecodable f[10] && asciiDecodable f[11]) (.units (unitsOf f)) s)

end Sys2Proof.Machine
end

