-- ==== Sys2Proof/Machine/Outcomes.lean ====
section
/-! DEFINITION. The four outcomes of a PUSH as the branches that end it (41_frame_synchronizer.md R103 to R107; log 10). -/

namespace Sys2Proof.Machine

/-- `ACCEPT` (R104): a full window whose byte 1 is STX is emitted and consumed. -/
def execPushAccept (s : State) : Host.Outcome State Fault Refusal := .next (takeOutcome .accept s)

/-- `RESYNC` (R105): a full window whose byte 1 is not STX loses its SOH, and the rest is scanned for the next. -/
def execPushResync (s : State) : Host.Outcome State Fault Refusal := .next (takeOutcome .resync s)

/-- `WAIT` (R106): one to fifteen bytes are kept. -/
def execPushWait (s : State) : Host.Outcome State Fault Refusal := .next (takeOutcome .wait s)

/-- `PURGE` (R107): nothing is held. -/
def execPushPurge (s : State) : Host.Outcome State Fault Refusal := .next (takeOutcome .purge s)

end Sys2Proof.Machine
end

