-- ==== Sys2Proof/Machine/Patterns.lean ====
section
/-! DEFINITION. The patterns of 30_encoding.md over sixteen bytes (R60, R68). -/

namespace Sys2Proof.Machine

/-- `CANDIDATE`: the start-marker test (R68). -/
def execCandidate (f : Frame) (s : State) : Host.Outcome State Fault Refusal := .next (answer (.matched (isCandidate f)) s)

/-- `FALSESTART` (R68). -/
def execFalsestart (f : Frame) (s : State) : Host.Outcome State Fault Refusal := .next (answer (.matched (isFalseStart f)) s)

/-- `FRAME`: the sixteen bytes of R60's table with the given free fields. -/
def execFrame (x : FrameFields) (s : State) : Host.Outcome State Fault Refusal := .next (answer (.frame x.layout) s)

end Sys2Proof.Machine
end

