-- ==== Sys2Proof/Machine/Reference.lean ====
section
/-! DEFINITION. The reference loop INGESTREF (41_frame_synchronizer.md R101) over the unbounded list `L` (`State.refBuf`), "not CORE's state
machine". -/

namespace Sys2Proof.Machine

open Config

/-- The loop of R101, steps 2a to 2d, on `L`: the list left and the frames yielded. Each turn that goes on removes at least one byte,
so as many turns as `L` has bytes suffice. -/
def refLoop : Nat → List Byte → List Byte × List Frame
  | 0, l => (l, [])
  | n + 1, l =>
    if l.length < FRAME_LEN then (l, [])
    else
      match l.findIdx? (fun b => b == SOH) with
      | none => ([], [])
      | some i =>
        match Frame.ofBytes? ((l.drop i).take FRAME_LEN) with
        | none => (l, [])
        | some w =>
          if w[1] = STX then
            let (left, out) := refLoop n (l.drop (i + FRAME_LEN))
            (left, w :: out)
          else refLoop n (l.take i ++ l.drop (i + 1))

/-- `INGESTREF(chunk)` (R101): step 1 appends, the loop runs, step 3 returns the frames. It is no operation of CORE: no beat passes and
`buf` is untouched. -/
def execIngestref (chunk : List Byte) (s : State) : Host.Outcome State Fault Refusal :=
  let l := s.refBuf ++ chunk
  .next (answer (.frames (refLoop l.length l).2) { s with refBuf := (refLoop l.length l).1 })

end Sys2Proof.Machine
end

