-- ==== Sys2Proof/Machine/Validator.lean ====
section
/-! DEFINITION. DECODE, BCC and the five checks (42_bcc_xor_checksum.md, 43_frame_validator.md): pure functions (R154) whose value is the
answer. -/

namespace Sys2Proof.Machine

/-- `DECODE(f)` on a sequence of any length (R153). -/
def execDecode (bytes : List Byte) (s : State) : Host.Outcome State Fault Refusal :=
  .next (answer (.decoded (decodeBytes bytes)) s)

/-- `BCC(f)` (R130). -/
def execBcc (f : Frame) (s : State) : Host.Outcome State Fault Refusal := .next (answer (.checksum (bccOf f)) s)

/-- Check 1 (R141). -/
def execCheckLength (bytes : List Byte) (s : State) : Host.Outcome State Fault Refusal :=
  .next (answer (.verdict (checkLength bytes)) s)

/-- Check 2 (R142). -/
def execCheckMarkers (f : Frame) (s : State) : Host.Outcome State Fault Refusal :=
  .next (answer (.verdict (checkMarkers f)) s)

/-- Check 3 (R143). -/
def execCheckSign (f : Frame) (s : State) : Host.Outcome State Fault Refusal := .next (answer (.verdict (checkSign f)) s)

/-- Check 4 (R144). -/
def execCheckUnits (f : Frame) (s : State) : Host.Outcome State Fault Refusal := .next (answer (.verdict (checkUnits f)) s)

/-- Check 5 (R145). -/
def execCheckBcc (f : Frame) (s : State) : Host.Outcome State Fault Refusal := .next (answer (.verdict (checkBcc f)) s)

end Sys2Proof.Machine
end

