-- ==== Sys2Proof/Machine/Dispatch.lean ====
section
/-! DEFINITION. `exec`: one arm per row of spec/opcode_table.json. -/

namespace Sys2Proof.Machine

/-- The meaning of an instruction. -/
def exec (i : Instr) (s : State) : Host.Outcome State Fault Refusal :=
  match i with
  | .reset => Sys2Proof.Machine.execReset s
  | .push b => Sys2Proof.Machine.execPush b s
  | .idle => Sys2Proof.Machine.execIdle s
  | .corestep rst inValid inData => Sys2Proof.Machine.execCorestep rst inValid inData s
  | .ingest chunk => Sys2Proof.Machine.execIngest chunk s
  | .ingestref chunk => Sys2Proof.Machine.execIngestref chunk s
  | .pushAccept => Sys2Proof.Machine.execPushAccept s
  | .pushResync => Sys2Proof.Machine.execPushResync s
  | .pushWait => Sys2Proof.Machine.execPushWait s
  | .pushPurge => Sys2Proof.Machine.execPushPurge s
  | .append b => Sys2Proof.Machine.execAppend b s
  | .window => Sys2Proof.Machine.execWindow s
  | .dropfront n => Sys2Proof.Machine.execDropfront n s
  | .evict => Sys2Proof.Machine.execEvict s
  | .clear => Sys2Proof.Machine.execClear s
  | .candidate f => Sys2Proof.Machine.execCandidate f s
  | .falsestart f => Sys2Proof.Machine.execFalsestart f s
  | .frame x => Sys2Proof.Machine.execFrame x s
  | .decode bytes => Sys2Proof.Machine.execDecode bytes s
  | .bcc f => Sys2Proof.Machine.execBcc f s
  | .checkLength bytes => Sys2Proof.Machine.execCheckLength bytes s
  | .checkMarkers f => Sys2Proof.Machine.execCheckMarkers f s
  | .checkSign f => Sys2Proof.Machine.execCheckSign f s
  | .checkUnits f => Sys2Proof.Machine.execCheckUnits f s
  | .checkBcc f => Sys2Proof.Machine.execCheckBcc f s
  | .signMinus f => Sys2Proof.Machine.execSignMinus f s
  | .signSpace f => Sys2Proof.Machine.execSignSpace f s
  | .statusOverload f => Sys2Proof.Machine.execStatusOverload f s
  | .statusStable f => Sys2Proof.Machine.execStatusStable f s
  | .statusUnstable f => Sys2Proof.Machine.execStatusUnstable f s
  | .statusUnknown f => Sys2Proof.Machine.execStatusUnknown f s
  | .status2None f => Sys2Proof.Machine.execStatus2None f s
  | .status2Zero f => Sys2Proof.Machine.execStatus2Zero f s
  | .status2Tare f => Sys2Proof.Machine.execStatus2Tare f s
  | .status2Overload f => Sys2Proof.Machine.execStatus2Overload f s
  | .status2Unknown f => Sys2Proof.Machine.execStatus2Unknown f s
  | .weight f => Sys2Proof.Machine.execWeight f s
  | .units f => Sys2Proof.Machine.execUnits f s
  | .constSoh => Sys2Proof.Machine.execConstSoh s
  | .constStx => Sys2Proof.Machine.execConstStx s
  | .constEtx => Sys2Proof.Machine.execConstEtx s
  | .constEot => Sys2Proof.Machine.execConstEot s
  | .errNone => Sys2Proof.Machine.execErrNone s
  | .errMalformedLength => Sys2Proof.Machine.execErrMalformedLength s
  | .errInvalidMarkers => Sys2Proof.Machine.execErrInvalidMarkers s
  | .errInvalidSign => Sys2Proof.Machine.execErrInvalidSign s
  | .errInvalidUnits => Sys2Proof.Machine.execErrInvalidUnits s
  | .errChecksumMismatch => Sys2Proof.Machine.execErrChecksumMismatch s

end Sys2Proof.Machine
end

