-- ==== Sys2Proof/Machine/Step.lean ====
section
/-! DEFINITION. One step: the next word the environment presents is decoded and run (44_core_top.md R170, R178; log 1, log 12). -/

namespace Sys2Proof.Machine

/-- One step. Where the environment presents nothing, the beat is idle (DESIGN CHOICE, log 1; R172); a word that is no row's encoding is
refused by name. -/
def step (s : State) : Host.Outcome State Fault Refusal :=
  match s.input with
  | [] => exec .idle s
  | c :: rest =>
    match decode c with
    | .ok i => exec i { s with input := rest }
    | .error why => .refused (.noRow why)

/-- `s` with a word of the opcode table as the next word presented. -/
def State.withFetchWord (s : State) (nbits w : Nat) : State := { s with input := tableCode nbits w :: s.input }

end Sys2Proof.Machine
end

