-- ==== Sys2Proof/Machine/Ports.lean ====
section
/-! DEFINITION. The output ports (44_core_top.md R171 to R175; 30_encoding.md R72 to R74) as the image of the output words. -/

namespace Sys2Proof.Machine

/-- What the ports show for an output word: `free` wherever the spec leaves a port unspecified (R174, R175, U2; log 5). -/
def portsOf (free : Ports) : OutWord → Ports
  | .noEvent => { free with inReady := true, outValid := false }
  | .event e =>
    match e.result with
    | .error err =>
      { free with inReady := true, outValid := true, outFrame := e.frame, outOk := false, outErr := errCodeOf (some err) }
    | .reading r =>
      { inReady := true
        outValid := true
        outFrame := e.frame
        outOk := true
        outErr := errCodeOf none
        rdStatus := statusCode r.status
        rdStatus2 := status2Code r.status2
        rdNeg := negOf e.frame
        rdIsPositive := r.isPositive
        rdDigits := digitsOf e.frame
        rdUnits := unitsOf e.frame }

/-- The ports over consecutive output beats, the first of them beat `n`. -/
def portsFrom (n : Nat) : List OutWord → List Ports
  | [] => []
  | w :: ws => portsOf (Config.freePorts n) w :: portsFrom (n + 1) ws

/-- The ports over the beats the last instruction took, oldest first. -/
def State.ports (s : State) : List Ports := portsFrom (s.draws - s.outs.length) s.outs

end Sys2Proof.Machine
end

