-- ==== Sys2Proof/Safety.lean ====
section
/-! DEFINITION. The terms the statements use: the invariant of a run, runs of instructions and of steps, and the stream function of
41_frame_synchronizer.md R122. -/

namespace Sys2Proof.Machine

open Config

/-- An output word that CORE can cause: no event, or a candidate frame with its own decode result (R170, R122 "Every emitted frame has
byte 0 equal to 0x01 and byte 1 equal to 0x02"). -/
def genuineWord : OutWord → Prop
  | .noEvent => True
  | .event e => e.frame[0] = SOH ∧ e.frame[1] = STX ∧ e.result = decodeBytes e.frame.toList

/-- The rest invariant of R22 on a buffer: at most fifteen bytes, none or from an SOH. -/
def restBuffer (bytes : List Byte) : Prop := bytes.length ≤ 15 ∧ (bytes.length = 0 ∨ bytes.head? = some 0x01)

/-- What holds between two steps: the rest invariant of R22, and only genuine output words in the pipeline and at the ports. -/
structure State.Inv (s : State) : Prop where
  rest : restBuffer s.buf
  pipe : ∀ w ∈ s.pipe, genuineWord w
  outs : ∀ w ∈ s.outs, genuineWord w

/-- The events among output words, in order. -/
def eventsOf : List OutWord → List Event
  | [] => []
  | .noEvent :: ws => eventsOf ws
  | .event e :: ws => e :: eventsOf ws

/-- `k` steps from `s`: the events presented, in order, and the state reached; it ends early at a refusal. -/
def traceOf : Nat → State → List Event × State
  | 0, s => ([], s)
  | k + 1, s =>
    match step s with
    | .next t => (eventsOf t.outs ++ (traceOf k t).1, (traceOf k t).2)
    | .fault _ => ([], s)
    | .refused _ => ([], s)

/-- Instructions run one after another: the frames they return, concatenated, and the state reached; `none` if one is refused. -/
def collect : List Instr → State → Option (List Frame × State)
  | [], s => some ([], s)
  | i :: is, s =>
    match exec i s with
    | .next t => (collect is t).map fun r => (t.result.returned ++ r.1, r.2)
    | .fault _ => none
    | .refused _ => none

/-- Instructions run one after another. -/
def runAll : List Instr → State → Host.Outcome State Fault Refusal
  | [], s => .next s
  | i :: is, s =>
    match exec i s with
    | .next t => runAll is t
    | .fault e => .fault e
    | .refused r => .refused r

/-- The bytes that input words push: a byte for a word with `in_valid = 1` (R71; for words with `rst = 0`). -/
def pushedBytes : List (BitVec 10) → List Byte
  | [] => []
  | w :: ws => if w.getLsbD 8 then w.extractLsb' 0 8 :: pushedBytes ws else pushedBytes ws

/-- `Frames(s)` and `Rest(s)` of R122, on the part of the stream from `p` on: the next SOH is found, its window taken or its one byte
dropped. Each turn consumes a byte, so as many turns as there are bytes suffice. -/
def scanStream : Nat → List Byte → List Frame × List Byte
  | 0, _ => ([], [])
  | n + 1, bytes =>
    match bytes.dropWhile (fun b => b != SOH) with
    | [] => ([], [])
    | soh :: rest =>
      match Frame.ofBytes? ((soh :: rest).take FRAME_LEN) with
      | none => ([], soh :: rest)
      | some w =>
        if w[1] = STX then
          (w :: (scanStream n ((soh :: rest).drop FRAME_LEN)).1, (scanStream n ((soh :: rest).drop FRAME_LEN)).2)
        else scanStream n rest

/-- `Frames(s)` (R122). -/
def streamFrames (bytes : List Byte) : List Frame := (scanStream bytes.length bytes).1

/-- `Rest(s)` (R122). -/
def streamRest (bytes : List Byte) : List Byte := (scanStream bytes.length bytes).2

/-- Two adjacent bytes `01 02` (R117). -/
def hasStartPair : List Byte → Bool
  | [] => false
  | [_] => false
  | a :: b :: rest => (a == SOH && b == STX) || hasStartPair (b :: rest)

/-- The row of a PUSH outcome. -/
def rowOf : PushOutcome → Instr
  | .purge => .pushPurge
  | .wait => .pushWait
  | .accept => .pushAccept
  | .resync => .pushResync

/-- The XOR of bytes 0 to 11, written out (R67, R69). -/
def spanXor (f : Frame) : Byte :=
  f[0] ^^^ f[1] ^^^ f[2] ^^^ f[3] ^^^ f[4] ^^^ f[5] ^^^ f[6] ^^^ f[7] ^^^ f[8] ^^^ f[9] ^^^ f[10] ^^^ f[11]

/-- The valid-frame predicate of R69. -/
def validFrame (f : Frame) : Prop :=
  (f[0] = 0x01 ∧ f[1] = 0x02 ∧ f[13] = 0x03 ∧ f[14] = 0x04) ∧
  (f[3] = 0x2D ∨ f[3] = 0x20) ∧
  (f[10].getLsbD 7 = false ∧ f[11].getLsbD 7 = false) ∧
  f[12] = spanXor f ^^^ 0x03

end Sys2Proof.Machine
end

