-- ==== Sys2Proof/Certificates/Slice0/Obligations.lean ====
section
/-! DEFINITION. The statements for the provers. Each docstring names the rule of spec/ it formalises, or the log entry of the model's choice
it rests on. -/

open Sys2Proof Sys2Proof.Machine

/-! ## Encoding and decoding -/

/-- Every instruction that has a word is read back from it, with every operand (30_encoding.md R43, R60 to R72). Which row a shared
word is read as, and which rows have a word, is log 12. -/
def Obligations.DecodeOfEncodeIsTheInstruction : Prop :=
  ∀ (i : Instr) (c : Code), i.wf = true → encode i = some c → decode c = .ok i

/-- What the decoder reads is well formed, and, the beats' don't-care bits apart, is encoded as the very word read. -/
def Obligations.DecodedWordsAreWellFormedAndExact : Prop :=
  ∀ (c : Code) (i : Instr), decode c = .ok i →
    i.wf = true ∧ ((∀ w : BitVec 10, c ≠ .beat w) → encode i = some c)

/-- R71: the word `rst, in_valid, in_data` selects RESET, PUSH or IDLE, and no beat is refused. -/
def Obligations.BeatWordsSelectTheirOperation : Prop :=
  ∀ (rst inValid : Bool) (b : Byte),
    decode (.beat (beatWord rst inValid b)) =
      .ok (if rst = true then .reset else if inValid = true then .push b else .idle)

/-- A few words written out from the encodings (95_test_vectors.md P1; R43, R60, R61, R71, R72). Frame A's flat word is a CANDIDATE (R68) as
well as a FRAME (R60); that it is read as FRAME, the more specific row, is the model's choice (log 12). -/
def Obligations.WrittenWordsDecodeToTheirInstructions : Prop :=
  decode (.beat 0x200) = .ok .reset ∧
  decode (.beat 0x3FF) = .ok .reset ∧
  decode (.beat 0x153) = .ok (.push 0x53) ∧
  decode (.beat 0x0AA) = .ok .idle ∧
  decode (.frame .window 0x010253203030313030306B677E030400) =
    .ok (.frame { status := 0x53, sign := 0x20, digits := #v[0x30, 0x30, 0x31, 0x30, 0x30, 0x30],
                  units := #v[0x6B, 0x67], bcc := 0x7E, status2 := 0x00 }) ∧
  decode (.byte 0x04) = .ok .constEot ∧
  decode (.errCode 5) = .ok .errChecksumMismatch

/-- The words no row has are refused by name, and so is a step that meets one: an `out_err` code that is never produced (R72), a byte that
is no marker (R61), a sixteen-byte window without SOH (R68), a sign of neither value (R62), units that are not ASCII (R66). The refusal is log 12. -/
def Obligations.WordsOfNoRowAreRefused : Prop :=
  (∀ c : BitVec 3, 6 ≤ c.toNat → decode (.errCode c) = .error .codeNeverProduced) ∧
  (∀ b : Byte, b ≠ 0x01 → b ≠ 0x02 → b ≠ 0x03 → b ≠ 0x04 → decode (.byte b) = .error .notAMarker) ∧
  (∀ f : Frame, f[0] ≠ 0x01 → decode (.frame .window (packFrame f)) = .error .notAWindow) ∧
  (∀ f : Frame, f[3] ≠ 0x2D → f[3] ≠ 0x20 → decode (.frame .fieldSign (packFrame f)) = .error .notASign) ∧
  (∀ f : Frame, 0x80 ≤ f[10].toNat ∨ 0x80 ≤ f[11].toNat →
    decode (.frame .fieldUnits (packFrame f)) = .error .unitsNotAscii) ∧
  (∀ (s : State) (c : Code) (rest : List Code) (why : DecodeReject),
    s.input = c :: rest → decode c = .error why → step s = .refused (.noRow why))

/-! ## The step -/

/-- A step runs the instruction that the next word presented decodes to (log 1, log 12). -/
def Obligations.StepRunsTheDecodedInstruction : Prop :=
  ∀ (s : State) (c : Code) (rest : List Code) (i : Instr),
    s.input = c :: rest → decode c = .ok i → i.wf = true →
      step s = exec i { s with input := rest }

/-- Where the environment presents nothing the beat is idle: the buffer stays as it is (the model's choice, log 1). -/
def Obligations.StepWithoutInputIsAnIdleBeat : Prop :=
  ∀ s : State, s.input = [] →
    step s = exec .idle s ∧ ∃ t, step s = .next t ∧ t.buf = s.buf ∧ t.refBuf = s.refBuf ∧ t.input = []

/-- A step consumes exactly the word it ran, whatever the instruction (log 1). -/
def Obligations.StepConsumesOneWord : Prop :=
  ∀ s t : State, step s = .next t → t.input = s.input.tail

/-- Every beat completes (R181). That a step with nothing presented is a beat at all, an idle one, is the model's choice (log 1). -/
def Obligations.EveryBeatCompletes : Prop :=
  ∀ s : State, s.Inv → (s.input = [] ∨ ∃ w rest, s.input = .beat w :: rest) → ∃ t, step s = .next t ∧ t.Inv

/-! ## The beats -/

/-- R210: RESET empties the buffer and emits nothing; R211: what is in the OUT_LATENCY pipeline is cancelled. -/
def Obligations.ResetEmptiesTheBuffer : Prop :=
  ∀ s : State,
    exec .reset s =
      .next { s with
        buf := []
        pipe := List.replicate s.pipe.length .noEvent
        outs := [OutWord.noEvent]
        result := .nothing
        draws := s.draws + 1 }

/-- R212 (the spec's general knowledge, G4; log 16): in a beat with `rst = 1` the byte presented is not pushed and is lost. -/
def Obligations.ResetOverridesTheByte : Prop :=
  ∀ (s : State) (inValid : Bool) (b : Byte) (rest : List Code),
    s.input = .beat (beatWord true inValid b) :: rest →
      ∃ t, step s = .next t ∧ t.buf = [] ∧ t.outs = [OutWord.noEvent] ∧ t.input = rest ∧
        ∀ w ∈ t.pipe, w = .noEvent

/-- R50, R210: nothing pushed before a reset bears on anything after it: two machines of one OUT_LATENCY, reset, take any chunk to
the same buffer, outputs and frames. -/
def Obligations.NothingCrossesAReset : Prop :=
  ∀ (s s' : State) (chunk : List Byte), s.pipe.length = s'.pipe.length →
    ∃ t t' u u', exec .reset s = .next t ∧ exec .reset s' = .next t' ∧
      exec (.ingest chunk) t = .next u ∧ exec (.ingest chunk) t' = .next u' ∧
      u.buf = u'.buf ∧ u.pipe = u'.pipe ∧ u.outs = u'.outs ∧ u.result = u'.result

/-- R172: an idle beat changes no state of CORE and causes no event; the OUT_LATENCY pipeline moves on by its one beat (R173). -/
def Obligations.IdleChangesNothing : Prop :=
  ∀ s : State,
    exec .idle s =
      .next { s with
        pipe := (s.pipe ++ [OutWord.noEvent]).drop 1
        outs := (s.pipe ++ [OutWord.noEvent]).take 1
        result := .nothing
        draws := s.draws + 1 }

/-- R102, PUSH: the byte is appended, leading bytes other than 0x01 are evicted; fewer than sixteen bytes are kept and nothing is
emitted; a full window is emitted with its decode result and consumed when its byte 1 is 0x02, and otherwise loses its first
byte and is evicted again. Nothing else changes. One of the three cases always applies, and the buffer is at rest again. -/
def Obligations.PushAppendsEvictsAndDecides : Prop :=
  ∀ (s : State) (b : Byte) (held : List Byte), restBuffer s.buf →
    held = (s.buf ++ [b]).dropWhile (fun x => x != 0x01) →
    (held.length < 16 →
      exec (.push b) s =
        .next { s with
          buf := held
          pipe := (s.pipe ++ [OutWord.noEvent]).drop 1
          outs := (s.pipe ++ [OutWord.noEvent]).take 1
          result := .outcome (if held.length = 0 then .purge else .wait)
          draws := s.draws + 1 }) ∧
    (∀ w : Frame, w.toList = held → w[1] = 0x02 →
      exec (.push b) s =
        .next { s with
          buf := []
          pipe := (s.pipe ++ [OutWord.event { frame := w, result := decodeBytes held }]).drop 1
          outs := (s.pipe ++ [OutWord.event { frame := w, result := decodeBytes held }]).take 1
          result := .outcome .accept
          draws := s.draws + 1 }) ∧
    (∀ w : Frame, w.toList = held → w[1] ≠ 0x02 →
      exec (.push b) s =
        .next { s with
          buf := (held.drop 1).dropWhile (fun x => x != 0x01)
          pipe := (s.pipe ++ [OutWord.noEvent]).drop 1
          outs := (s.pipe ++ [OutWord.noEvent]).take 1
          result := .outcome .resync
          draws := s.draws + 1 }) ∧
    (held.length < 16 ∨ ∃ w : Frame, w.toList = held) ∧
    ∃ t, exec (.push b) s = .next t ∧ restBuffer t.buf

/-- R103: a PUSH is APPEND, EVICT and exactly one of the four outcome rows; the three others are not taken (log 10). -/
def Obligations.PushIsItsPrimitivesAndOneOutcome : Prop :=
  ∀ (s : State) (b : Byte), restBuffer s.buf →
    ∃ (o : PushOutcome) (t : State),
      exec (.push b) s = .next t ∧ t.result = .outcome o ∧
      runAll [.append b, .evict, rowOf o] s = .next t ∧
      ∀ o' : PushOutcome, o' ≠ o →
        ∃ u, runAll [.append b, .evict, rowOf o'] s = .next u ∧ u.result = .notTaken

/-- R178, R206: a PUSH, a CORESTEP that pushes and an INGEST of a byte are refused in a state that violates the rest invariant. -/
def Obligations.PushesOffRestAreRefused : Prop :=
  ∀ (s : State) (b : Byte) (bs : List Byte), ¬ restBuffer s.buf →
    exec (.push b) s = .refused .notAtRest ∧
    exec (.corestep false true b) s = .refused .notAtRest ∧
    exec (.ingest (b :: bs)) s = .refused .notAtRest

/-- R170: CORESTEP is RESET when `rst`, else PUSH when `in_valid`, else IDLE; at rest it always completes, at rest again, the
reference list and the input untouched and OUT_LATENCY the same. -/
def Obligations.CorestepSelectsResetPushOrIdle : Prop :=
  ∀ (s : State) (rst inValid : Bool) (b : Byte),
    exec (.corestep rst inValid b) s =
      (if rst = true then exec .reset s else if inValid = true then exec (.push b) s else exec .idle s) ∧
    (restBuffer s.buf →
      ∃ t, exec (.corestep rst inValid b) s = .next t ∧ restBuffer t.buf ∧ t.refBuf = s.refBuf ∧
        t.input = s.input ∧ t.pipe.length = s.pipe.length)

/-- R173: the event of a PUSH that accepts is the one presented OUT_LATENCY beats later, whatever OUT_LATENCY is and whatever
stood in the pipeline. -/
def Obligations.AnEventIsPresentedAfterOutLatency : Prop :=
  ∀ (s : State) (b : Byte) (w : Frame), restBuffer s.buf → w.toList = s.buf ++ [b] → w[1] = 0x02 →
    ∃ t u, exec (.push b) s = .next t ∧ runAll (List.replicate s.pipe.length .idle) t = .next u ∧
      u.outs = [OutWord.event { frame := w, result := decodeBytes w.toList }] ∧ u.buf = []

/-! ## The outcomes of a PUSH -/

/-- R104, R105: with a full window from SOH held, ACCEPT emits and consumes it when byte 1 is STX, and RESYNC drops its first byte
and evicts when it is not. That the branch is run as a row is log 10. -/
def Obligations.AcceptAndResyncResolveAFullWindow : Prop :=
  ∀ (s : State) (w : Frame), s.buf = w.toList → w[0] = 0x01 →
    (w[1] = 0x02 →
      exec .pushAccept s =
        .next { s with
          buf := []
          pipe := (s.pipe ++ [OutWord.event { frame := w, result := decodeBytes w.toList }]).drop 1
          outs := (s.pipe ++ [OutWord.event { frame := w, result := decodeBytes w.toList }]).take 1
          result := .outcome .accept
          draws := s.draws + 1 }) ∧
    (w[1] ≠ 0x02 →
      exec .pushResync s =
        .next { s with
          buf := (w.toList.drop 1).dropWhile (fun x => x != 0x01)
          pipe := (s.pipe ++ [OutWord.noEvent]).drop 1
          outs := (s.pipe ++ [OutWord.noEvent]).take 1
          result := .outcome .resync
          draws := s.draws + 1 })

/-- R106, R107: WAIT keeps one to fifteen bytes from an SOH, PURGE holds nothing; neither emits (rows: log 10). -/
def Obligations.WaitAndPurgeEmitNothing : Prop :=
  (∀ (s : State) (xs : List Byte), s.buf = 0x01 :: xs → xs.length ≤ 14 →
    exec .pushWait s =
      .next { s with
        pipe := (s.pipe ++ [OutWord.noEvent]).drop 1
        outs := (s.pipe ++ [OutWord.noEvent]).take 1
        result := .outcome .wait
        draws := s.draws + 1 }) ∧
  (∀ s : State, s.buf = [] →
    exec .pushPurge s =
      .next { s with
        pipe := (s.pipe ++ [OutWord.noEvent]).drop 1
        outs := (s.pipe ++ [OutWord.noEvent]).take 1
        result := .outcome .purge
        draws := s.draws + 1 })

/-- An outcome row whose condition (R103) does not hold is not taken: nothing but the answer changes (the model's choice, log 10). -/
def Obligations.AnOutcomeRowOffItsConditionIsNotTaken : Prop :=
  ∀ (s : State) (o : PushOutcome),
    ¬ (match o with
        | .purge => s.buf = []
        | .wait => 1 ≤ s.buf.length ∧ s.buf.length ≤ 15 ∧ s.buf.head? = some 0x01
        | .accept => s.buf.length = 16 ∧ s.buf.head? = some 0x01 ∧ s.buf[1]? = some 0x02
        | .resync => s.buf.length = 16 ∧ s.buf.head? = some 0x01 ∧ s.buf[1]? ≠ some 0x02) →
      exec (rowOf o) s = .next { s with outs := [], result := .notTaken }

/-! ## The primitives of byte_accumulator -/

/-- R91. -/
def Obligations.AppendAddsTheByteAtTheBack : Prop :=
  ∀ (s : State) (b : Byte), s.buf.length ≤ 15 →
    exec (.append b) s = .next { s with buf := s.buf ++ [b], outs := [], result := .nothing }

/-- R92: the window is the sixteen bytes held, and the buffer does not change. -/
def Obligations.WindowCopiesTheSixteenBytes : Prop :=
  ∀ (s : State) (w : Frame), s.buf = w.toList →
    exec .window s = .next { s with outs := [], result := .frame w }

/-- R93: the `n` oldest bytes are removed and the rest keep their order. -/
def Obligations.DropfrontRemovesTheOldestBytes : Prop :=
  ∀ (s : State) (gone kept : List Byte), s.buf = gone ++ kept →
    exec (.dropfront gone.length) s = .next { s with buf := kept, outs := [], result := .nothing }

/-- R94: EVICT removes every byte in front of the first SOH, or every byte where there is none, and no SOH. R95: CLEAR removes all. -/
def Obligations.EvictStopsAtTheFirstSohAndClearAtNone : Prop :=
  ∀ s : State,
    (∃ gone kept : List Byte,
      s.buf = gone ++ kept ∧ (∀ x ∈ gone, x ≠ 0x01) ∧ (kept = [] ∨ kept.head? = some 0x01) ∧
      exec .evict s = .next { s with buf := kept, outs := [], result := .nothing }) ∧
    exec .clear s = .next { s with buf := [], outs := [], result := .nothing }

/-- R91, R92, R93: outside their preconditions the primitives are refused by name (log 9). -/
def Obligations.PrimitivesOutsideTheirPreconditionsAreRefused : Prop :=
  ∀ (s : State) (b : Byte) (n : Nat),
    (16 ≤ s.buf.length → exec (.append b) s = .refused .bufferFull) ∧
    (s.buf.length ≠ 16 → exec .window s = .refused .windowNotFull) ∧
    (s.buf.length < n → exec (.dropfront n) s = .refused .dropPastEnd)

/-! ## INGEST and the stream function -/

/-- R108: an empty chunk yields nothing, and a chunk is a PUSH of its first byte and then the rest of it, the frame that the PUSH
emitted, if it accepted one, first; each frame takes sixteen of the bytes held and pushed. -/
def Obligations.IngestIsItsPushesInOrder : Prop :=
  ∀ (s : State) (b : Byte) (bs : List Byte),
    exec (.ingest []) s = .next { s with outs := [], result := .frames [] } ∧
    (restBuffer s.buf →
      ∃ (t u : State) (emitted fs : List Frame),
        exec (.push b) s = .next t ∧ exec (.ingest bs) t = .next u ∧ u.result = .frames fs ∧
        (t.result = .outcome .accept → ∃ w : Frame, w.toList = s.buf ++ [b] ∧ emitted = [w]) ∧
        (t.result ≠ .outcome .accept → emitted = []) ∧
        exec (.ingest (b :: bs)) s =
          .next { u with outs := t.outs ++ u.outs, result := .frames (emitted ++ fs) } ∧
        16 * (emitted ++ fs).length ≤ s.buf.length + (bs.length + 1) ∧
        u.refBuf = s.refBuf ∧ u.input = s.input)

/-- R111: the frames and the final buffer do not depend on how the bytes are cut into chunks, nor on idle beats between them. -/
def Obligations.ChunkingDoesNotAffectTheFrames : Prop :=
  ∀ (s : State) (chunks : List (List Byte)), restBuffer s.buf →
    ∃ (fs : List Frame) (t u v : State),
      exec (.ingest chunks.flatten) s = .next u ∧ u.result = .frames fs ∧
      collect (chunks.map .ingest) s = some (fs, t) ∧ t.buf = u.buf ∧ t.pipe = u.pipe ∧
      collect (chunks.flatMap fun c => [.ingest c, .idle]) s = some (fs, v) ∧ v.buf = u.buf

/-- R122: from an empty buffer INGEST emits `Frames(s)` and holds `Rest(s)`. -/
def Obligations.IngestComputesTheStreamFunction : Prop :=
  ∀ (s : State) (bytes : List Byte), s.buf = [] →
    ∃ t, exec (.ingest bytes) s = .next t ∧ t.result = .frames (streamFrames bytes) ∧ t.buf = streamRest bytes

/-- R122's properties, of INGEST from an empty buffer: what is emitted for `a` is the front of what is emitted for `a ++ b`, the rest
being what INGEST of `b` then emits; the frames start `01 02`; at most fifteen bytes are held; and where `b` completes a window
`01 02` with the bytes held, exactly that window is emitted for it. -/
def Obligations.IngestedFramesGrowWithTheStream : Prop :=
  ∀ (s : State) (a b : List Byte), s.buf = [] →
    ∃ (t u v : State) (fs gs : List Frame),
      exec (.ingest a) s = .next t ∧ t.result = .frames fs ∧
      exec (.ingest b) t = .next v ∧ v.result = .frames gs ∧
      exec (.ingest (a ++ b)) s = .next u ∧ u.result = .frames (fs ++ gs) ∧ u.buf = v.buf ∧
      (∀ w ∈ fs, w[0] = 0x01 ∧ w[1] = 0x02) ∧ t.buf.length ≤ 15 ∧
      (∀ w : Frame, w.toList = t.buf ++ b → w[0] = 0x01 → w[1] = 0x02 → gs = [w] ∧ u.buf = [])

/-- R48, R97, R112, R114: the frames emitted, in order and without overlap, and then the bytes held, are a selection of the bytes that came, in
their order; what is held is a run of the last of them. -/
def Obligations.OutputOrderIsInputOrder : Prop :=
  ∀ (s : State) (chunk : List Byte), restBuffer s.buf →
    ∃ (t : State) (fs : List Frame), exec (.ingest chunk) s = .next t ∧ t.result = .frames fs ∧
      ((fs.flatMap fun w => w.toList) ++ t.buf).Sublist (s.buf ++ chunk) ∧ t.buf <:+ s.buf ++ chunk

/-- R106, R116: an SOH and up to fourteen bytes after it, whatever they are, are kept, a false start not yet rejected. -/
def Obligations.AStartIsHeldUntilItsWindowIsFull : Prop :=
  ∀ (s : State) (xs : List Byte), s.buf = [] → xs.length ≤ 14 →
    ∃ t, exec (.ingest (0x01 :: xs)) s = .next t ∧ t.buf = 0x01 :: xs ∧ t.result = .frames []

/-- R104, R115, R118: sixteen bytes that start `01 02` where the synchroniser is scanning are emitted and consumed whole, whatever
they hold and however they decode: what follows is taken as from an empty buffer. -/
def Obligations.AStartPairCapturesSixteenBytes : Prop :=
  ∀ (s : State) (w : Frame) (more : List Byte), s.buf = [] → w[0] = 0x01 → w[1] = 0x02 →
    ∃ (t u : State) (fs : List Frame),
      exec (.ingest (w.toList ++ more)) s = .next t ∧ exec (.ingest more) s = .next u ∧ u.result = .frames fs ∧
      t.result = .frames (w :: fs) ∧ t.buf = u.buf

/-- R117: noise without a `01 02` in its last fifteen bytes does not prevent the frame after it from being recovered. -/
def Obligations.NoiseDoesNotHideTheNextFrame : Prop :=
  ∀ (s : State) (noise : List Byte) (w : Frame), s.buf = [] →
    hasStartPair (noise.drop (noise.length - 15)) = false → w[0] = 0x01 → w[1] = 0x02 →
    ∃ (t : State) (fs : List Frame),
      exec (.ingest (noise ++ w.toList)) s = .next t ∧ t.result = .frames (fs ++ [w]) ∧ t.buf = []

/-! ## The reference loop -/

/-- R101, the loop's turns, with `l` the list after step 1: fewer than sixteen bytes stay; sixteen or more without SOH are discarded;
with fewer than sixteen bytes from the first SOH the loop waits; a window `01 02` is yielded and everything through it removed;
of a spurious SOH only that one byte is removed. Nothing but the list and the answer changes. -/
def Obligations.ReferenceLoopTurns : Prop :=
  ∀ (s : State) (chunk l : List Byte), l = s.refBuf ++ chunk →
    (l.length < 16 →
      exec (.ingestref chunk) s = .next { s with refBuf := l, outs := [], result := .frames [] }) ∧
    (16 ≤ l.length → 0x01 ∉ l →
      exec (.ingestref chunk) s = .next { s with refBuf := [], outs := [], result := .frames [] }) ∧
    (∀ garbage found : List Byte, l = garbage ++ found → 0x01 ∉ garbage → found.head? = some 0x01 →
      found.length < 16 →
      exec (.ingestref chunk) s = .next { s with refBuf := l, outs := [], result := .frames [] }) ∧
    (∀ (garbage left : List Byte) (w : Frame), l = garbage ++ w.toList ++ left → 0x01 ∉ garbage →
      w[0] = 0x01 → w[1] = 0x02 →
      ∃ (t : State) (fs : List Frame),
        exec (.ingestref []) { s with refBuf := left } = .next t ∧ t.result = .frames fs ∧
        exec (.ingestref chunk) s = .next { s with refBuf := t.refBuf, outs := [], result := .frames (w :: fs) }) ∧
    (∀ (garbage left : List Byte) (w : Frame), l = garbage ++ w.toList ++ left → 0x01 ∉ garbage →
      w[0] = 0x01 → w[1] ≠ 0x02 →
      exec (.ingestref chunk) s = exec (.ingestref []) { s with refBuf := garbage ++ (w.toList.drop 1 ++ left) })

/-- INGESTREF completes on every list and chunk, returns frames, and touches nothing of CORE: no beat passes and `buf` stays (R101). -/
def Obligations.IngestrefAlwaysCompletes : Prop :=
  ∀ (s : State) (chunk : List Byte), ∃ (left : List Byte) (fs : List Frame),
    exec (.ingestref chunk) s = .next { s with refBuf := left, outs := [], result := .frames fs } ∧
    (left.length < 16 ∨ ∃ garbage found, left = garbage ++ found ∧ 0x01 ∉ garbage ∧ found.length < 16)

/-- R109: from empty buffers, whatever the chunks, the reference loop returns what INGEST of the whole stream returns, which is `Frames` of
it. R110: after the same input CORE's buffer is the reference loop's without its leading bytes other than SOH. -/
def Obligations.TheReferenceLoopAgreesWithIngest : Prop :=
  ∀ (s : State) (chunks : List (List Byte)), s.buf = [] → s.refBuf = [] →
    ∃ (fs : List Frame) (t u : State),
      collect (chunks.map .ingestref) s = some (fs, t) ∧
      exec (.ingest chunks.flatten) s = .next u ∧ u.result = .frames fs ∧ fs = streamFrames chunks.flatten ∧
      u.buf = t.refBuf.dropWhile (fun x => x != 0x01)

/-! ## Whole runs -/

/-- Every step keeps the rest invariant of R22, genuine outputs, and OUT_LATENCY. -/
def Obligations.EveryStepKeepsTheInvariant : Prop :=
  ∀ s t : State, s.Inv → step s = .next t → t.Inv ∧ t.pipe.length = s.pipe.length

/-- The state after reset meets the invariant (R22, R31). -/
def Obligations.ResetStateMeetsTheInvariant : Prop := State.reset.Inv ∧ State.reset.buf = []

/-- R159: MalformedLength is never output. -/
def Obligations.MalformedLengthIsNeverOutput : Prop :=
  ∀ s t : State, s.Inv → step s = .next t →
    ∀ e ∈ eventsOf t.outs, e.result ≠ .error .malformedLength ∧ e.result = decodeBytes e.frame.toList

/-- R179: after a reset beat, whatever came before it, the events presented are the frames of the bytes pushed since, each with its
decode result, in order, and the buffer is `Rest` of those bytes; idle beats do not appear. The OUT_LATENCY further beats, which
let the last events out, are steps with nothing presented, idle beats by log 1. -/
def Obligations.TheTraceSinceAResetIsTheStreamFunction : Prop :=
  ∀ (s : State) (inValid : Bool) (b : Byte) (ws : List (BitVec 10)),
    s.input = (beatWord true inValid b :: ws).map .beat → (∀ w ∈ ws, w.getLsbD 9 = false) →
      (traceOf (1 + ws.length + s.pipe.length) s).1 =
        (streamFrames (pushedBytes ws)).map (fun w => { frame := w, result := decodeBytes w.toList }) ∧
      (traceOf (1 + ws.length + s.pipe.length) s).2.buf = streamRest (pushedBytes ws)

/-- The output words, the last answer and the free values are read by no instruction (R30, R49, R115, U2): two states that differ in
them alone run alike. -/
def Obligations.OutputsAreNeverReadBack : Prop :=
  ∀ (i : Instr) (s : State) (outs : List OutWord) (r : Result) (n : Nat),
    match exec i s, exec i { s with outs := outs, result := r, draws := n } with
    | .next t, .next u =>
      t.buf = u.buf ∧ t.pipe = u.pipe ∧ t.outs = u.outs ∧ t.result = u.result ∧ t.refBuf = u.refBuf ∧ t.input = u.input
    | .refused a, .refused b => a = b
    | _, _ => False

/-! ## DECODE, BCC and the checks -/

/-- R141 to R145: each check names its own error, or passes. The bound 0x80 of the units is the spec's general knowledge (G2; log 14). -/
def Obligations.EachCheckNamesItsError : Prop :=
  ∀ (s : State) (bytes : List Byte) (f : Frame),
    exec (.checkLength bytes) s =
      .next { s with outs := [], result := .verdict (if bytes.length = 16 then none else some .malformedLength) } ∧
    exec (.checkMarkers f) s =
      .next { s with
        outs := []
        result := .verdict
          (if f[0] = 0x01 ∧ f[1] = 0x02 ∧ f[13] = 0x03 ∧ f[14] = 0x04 then none else some .invalidMarkers) } ∧
    exec (.checkSign f) s =
      .next { s with
        outs := [], result := .verdict (if f[3] = 0x2D ∨ f[3] = 0x20 then none else some .invalidSign) } ∧
    exec (.checkUnits f) s =
      .next { s with
        outs := []
        result := .verdict (if 0x80 ≤ f[10].toNat ∨ 0x80 ≤ f[11].toNat then some .invalidUnits else none) } ∧
    exec (.checkBcc f) s =
      .next { s with
        outs := [], result := .verdict (if f[12] = spanXor f ^^^ 0x03 then none else some .checksumMismatch) }

/-- R153, R146: DECODE answers the first failing check in order, or the Reading of the fields. -/
def Obligations.DecodeAnswersTheFirstFailingCheck : Prop :=
  ∀ s : State,
    (∀ bytes : List Byte, bytes.length ≠ 16 →
      exec (.decode bytes) s = .next { s with outs := [], result := .decoded (.error .malformedLength) }) ∧
    (∀ f : Frame,
      exec (.decode f.toList) s =
        .next { s with
          outs := []
          result := .decoded
            (if ¬ (f[0] = 0x01 ∧ f[1] = 0x02 ∧ f[13] = 0x03 ∧ f[14] = 0x04) then .error .invalidMarkers
             else if ¬ (f[3] = 0x2D ∨ f[3] = 0x20) then .error .invalidSign
             else if f[10].getLsbD 7 = true ∨ f[11].getLsbD 7 = true then .error .invalidUnits
             else if f[12] ≠ spanXor f ^^^ 0x03 then .error .checksumMismatch
             else .reading
               { status :=
                   if f[2] = 0x46 then .overload else if f[2] = 0x53 then .stable
                   else if f[2] = 0x55 then .unstable else .unknown
                 weight := (if f[3] = 0x2D then [(0x2D : Byte)] else []) ++ [f[4], f[5], f[6], f[7], f[8], f[9]]
                 units := #v[f[10], f[11]]
                 status2 :=
                   if f[15] = 0x00 then .none else if f[15] = 0x10 then .zero else if f[15] = 0x20 then .tare
                   else if f[15] = 0x40 then .overload else .unknown
                 isPositive := if f[3] = 0x2D then false else true }) })

/-- R69, R156: DECODE is a Reading exactly on the valid frames, and from it the sign, the digits and the units come back, and the status
bytes where they are recognised. -/
def Obligations.ValidFramesRoundTrip : Prop :=
  ∀ (s : State) (f : Frame),
    (validFrame f ↔
      ∃ r : Reading, exec (.decode f.toList) s = .next { s with outs := [], result := .decoded (.reading r) }) ∧
    (∀ r : Reading, exec (.decode f.toList) s = .next { s with outs := [], result := .decoded (.reading r) } →
      f[3] = (if r.isPositive = true then 0x20 else 0x2D) ∧
      r.weight.drop (r.weight.length - 6) = [f[4], f[5], f[6], f[7], f[8], f[9]] ∧
      r.weight.length = (if r.isPositive = true then 6 else 7) ∧
      r.units = #v[f[10], f[11]] ∧
      (r.status = .overload → f[2] = 0x46) ∧ (r.status = .stable → f[2] = 0x53) ∧
      (r.status = .unstable → f[2] = 0x55) ∧
      (r.status2 = .none → f[15] = 0x00) ∧ (r.status2 = .zero → f[15] = 0x10) ∧
      (r.status2 = .tare → f[15] = 0x20) ∧ (r.status2 = .overload → f[15] = 0x40))

/-- R157's table: a valid frame with exactly one byte changed, by the offset of the change. -/
def Obligations.OneChangedByteIsClassified : Prop :=
  ∀ (s : State) (f : Frame) (k : Fin 16) (b : Byte), validFrame f → b ≠ f[k] →
    if k = 15 then
      ∃ r r' : Reading,
        exec (.decode f.toList) s = .next { s with outs := [], result := .decoded (.reading r) } ∧
        exec (.decode (f.set k b).toList) s = .next { s with outs := [], result := .decoded (.reading r') } ∧
        r' = { r with status2 := r'.status2 }
    else
      exec (.decode (f.set k b).toList) s =
        .next { s with
          outs := []
          result := .decoded (.error
            (if k = 0 ∨ k = 1 ∨ k = 13 ∨ k = 14 then .invalidMarkers
             else if k = 3 ∧ b ≠ 0x2D ∧ b ≠ 0x20 then .invalidSign
             else if (k = 10 ∨ k = 11) ∧ 0x80 ≤ b.toNat then .invalidUnits
             else .checksumMismatch)) }

/-- R130: the checksum is the XOR of bytes 0 to 11, XOR 0x03. -/
def Obligations.BccIsTheXorOfTheSpan : Prop :=
  ∀ (s : State) (f : Frame),
    exec (.bcc f) s = .next { s with outs := [], result := .checksum (spanXor f ^^^ 0x03) }

/-- R131, R134, R135, R136: two checksums differ by exactly the XOR of the span's byte differences, so one changed byte of the span
always shows; the order of the span's bytes does not; with the start markers in place the checksum is the XOR of bytes 2 to 11. -/
def Obligations.BccSeesExactlyTheXorOfTheDifferences : Prop :=
  ∀ (s : State) (f g : Frame), ∃ x y : Byte,
    exec (.bcc f) s = .next { s with outs := [], result := .checksum x } ∧
    exec (.bcc g) s = .next { s with outs := [], result := .checksum y } ∧
    (x = y ↔
      ((List.zipWith (fun a b => a ^^^ b) f.toList g.toList).take 12).foldl (fun a b => a ^^^ b) 0 = 0) ∧
    ((f.toList.take 12).Perm (g.toList.take 12) → x = y) ∧
    (∀ (k : Nat) (h : k < 12) (b : Byte), b ≠ f[k] → g = f.set k b → x ≠ y) ∧
    (f[0] = 0x01 → f[1] = 0x02 →
      x = f[2] ^^^ f[3] ^^^ f[4] ^^^ f[5] ^^^ f[6] ^^^ f[7] ^^^ f[8] ^^^ f[9] ^^^ f[10] ^^^ f[11])

/-! ## Patterns, fields, constants and codes -/

/-- R68: the two patterns of the synchroniser, of which a window from SOH has exactly one. That a row answers is log 11. -/
def Obligations.CandidateAndFalseStartPartitionTheWindows : Prop :=
  ∀ (s : State) (f : Frame),
    ∃ a b : Bool,
      exec (.candidate f) s = .next { s with outs := [], result := .matched a } ∧
      exec (.falsestart f) s = .next { s with outs := [], result := .matched b } ∧
      (a = true ↔ f[0] = 0x01 ∧ f[1] = 0x02) ∧ (b = true ↔ f[0] = 0x01 ∧ f[1] ≠ 0x02)

/-- R60: the positions of a frame's fields. That the row answers the bytes is log 11. -/
def Obligations.FrameLaysItsFieldsOut : Prop :=
  ∀ (s : State) (x : FrameFields), ∃ f : Frame,
    exec (.frame x) s = .next { s with outs := [], result := .frame f } ∧
    f[0] = 0x01 ∧ f[1] = 0x02 ∧ f[2] = x.status ∧ f[3] = x.sign ∧
    (∀ (k : Nat) (h : k < 6), f[4 + k] = x.digits[k]) ∧ f[10] = x.units[0] ∧ f[11] = x.units[1] ∧
    f[12] = x.bcc ∧ f[13] = 0x03 ∧ f[14] = 0x04 ∧ f[15] = x.status2

/-- R62: the two sign values, and any other is an InvalidSign. That a row answers is log 11. -/
def Obligations.TheSignHasTwoValues : Prop :=
  ∀ (s : State) (f : Frame),
    (f[3] = 0x2D → exec (.signMinus f) s = .next { s with outs := [], result := .sign false true [0x2D] }) ∧
    (f[3] = 0x20 → exec (.signSpace f) s = .next { s with outs := [], result := .sign true false [] }) ∧
    (f[3] ≠ 0x2D → f[3] ≠ 0x20 →
      exec (.checkSign f) s = .next { s with outs := [], result := .verdict (some .invalidSign) })

/-- R63 with R73's codes: every byte at offset 2 has its one row. The bytes of `F` and `U` are the spec's general knowledge (G1; log 13);
that a row answers is log 11. -/
def Obligations.StatusRowsMapByteTwo : Prop :=
  ∀ (s : State) (f : Frame),
    (f[2] = 0x46 → exec (.statusOverload f) s = .next { s with outs := [], result := .status .overload 0 }) ∧
    (f[2] = 0x53 → exec (.statusStable f) s = .next { s with outs := [], result := .status .stable 1 }) ∧
    (f[2] = 0x55 → exec (.statusUnstable f) s = .next { s with outs := [], result := .status .unstable 2 }) ∧
    (f[2] ≠ 0x46 → f[2] ≠ 0x53 → f[2] ≠ 0x55 →
      exec (.statusUnknown f) s = .next { s with outs := [], result := .status .unknown 3 })

/-- R64 with R73's codes: the map is by equality of the whole byte, so 0x30 is Unknown. That a row answers is log 11. -/
def Obligations.Status2RowsMapByteFifteen : Prop :=
  ∀ (s : State) (f : Frame),
    (f[15] = 0x00 → exec (.status2None f) s = .next { s with outs := [], result := .status2 .none 0 }) ∧
    (f[15] = 0x10 → exec (.status2Zero f) s = .next { s with outs := [], result := .status2 .zero 1 }) ∧
    (f[15] = 0x20 → exec (.status2Tare f) s = .next { s with outs := [], result := .status2 .tare 2 }) ∧
    (f[15] = 0x40 → exec (.status2Overload f) s = .next { s with outs := [], result := .status2 .overload 3 }) ∧
    (f[15] ≠ 0x00 → f[15] ≠ 0x10 → f[15] ≠ 0x20 → f[15] ≠ 0x40 →
      exec (.status2Unknown f) s = .next { s with outs := [], result := .status2 .unknown 4 })

/-- R65, R66: the weight bytes are any six, as they stand; the units are two bytes of at most 0x7F (G2; log 14), and others an
InvalidUnits. That a row answers is log 11. -/
def Obligations.WeightAndUnitsAreTakenAsTheyStand : Prop :=
  ∀ (s : State) (f : Frame),
    exec (.weight f) s = .next { s with outs := [], result := .digits #v[f[4], f[5], f[6], f[7], f[8], f[9]] } ∧
    (f[10].toNat ≤ 0x7F → f[11].toNat ≤ 0x7F →
      exec (.units f) s = .next { s with outs := [], result := .units #v[f[10], f[11]] }) ∧
    (0x7F < f[10].toNat ∨ 0x7F < f[11].toNat →
      exec (.checkUnits f) s = .next { s with outs := [], result := .verdict (some .invalidUnits) })

/-- A field row whose byte the frame does not hold answers `noMatch` and changes nothing else (the model's choice, log 11). -/
def Obligations.FieldRowsWithoutTheirByteAnswerNoMatch : Prop :=
  ∀ (s : State) (f : Frame) (i : Instr),
    i = .signMinus f ∨ i = .signSpace f ∨ i = .statusOverload f ∨ i = .statusStable f ∨ i = .statusUnstable f ∨
      i = .statusUnknown f ∨ i = .status2None f ∨ i = .status2Zero f ∨ i = .status2Tare f ∨
      i = .status2Overload f ∨ i = .status2Unknown f ∨ i = .units f →
    i.wf = false → exec i s = .next { s with outs := [], result := .noMatch }

/-- R61: the marker constants, with the offsets of R60. That a row answers is log 11. -/
def Obligations.MarkerConstantsAreTheSpecs : Prop :=
  ∀ s : State,
    exec .constSoh s = .next { s with outs := [], result := .marker 0x01 0 } ∧
    exec .constStx s = .next { s with outs := [], result := .marker 0x02 1 } ∧
    exec .constEtx s = .next { s with outs := [], result := .marker 0x03 13 } ∧
    exec .constEot s = .next { s with outs := [], result := .marker 0x04 14 }

/-- R72: the error codes, 0 with `out_ok = 1` for none. That a row answers is log 11. -/
def Obligations.ErrorCodesFollowTheOrderOfTheChecks : Prop :=
  ∀ s : State,
    exec .errNone s = .next { s with outs := [], result := .errPort 0 true none } ∧
    exec .errMalformedLength s = .next { s with outs := [], result := .errPort 1 false (some .malformedLength) } ∧
    exec .errInvalidMarkers s = .next { s with outs := [], result := .errPort 2 false (some .invalidMarkers) } ∧
    exec .errInvalidSign s = .next { s with outs := [], result := .errPort 3 false (some .invalidSign) } ∧
    exec .errInvalidUnits s = .next { s with outs := [], result := .errPort 4 false (some .invalidUnits) } ∧
    exec .errChecksumMismatch s = .next { s with outs := [], result := .errPort 5 false (some .checksumMismatch) }

/-! ## The output ports -/

/-- R171, R172, R173, R175 (R174 for the beats without an event, whose other ports stay free): what the ports show after a PUSH at
OUT_LATENCY 0 that accepts a frame, whatever the free values. -/
def Obligations.PortsShowTheEventOfAPush : Prop :=
  ∀ (s : State) (b : Byte) (w : Frame), restBuffer s.buf → s.pipe = [] → w.toList = s.buf ++ [b] → w[1] = 0x02 →
    ∃ (t : State) (p : Ports), exec (.push b) s = .next t ∧ t.ports = [p] ∧
      p.inReady = true ∧ p.outValid = true ∧ p.outFrame = w ∧
      (∀ r : Reading, decodeBytes w.toList = .reading r →
        p.outOk = true ∧ p.outErr = 0 ∧ p.rdStatus = statusCode r.status ∧ p.rdStatus2 = status2Code r.status2 ∧
        (p.rdNeg = true ↔ w[3] = 0x2D) ∧ p.rdIsPositive = r.isPositive ∧ p.rdIsPositive = !p.rdNeg ∧
        r.weight = (if p.rdNeg = true then [(0x2D : Byte)] else []) ++ p.rdDigits.toList ∧ p.rdUnits = r.units) ∧
      (∀ e : DecodeError, decodeBytes w.toList = .error e →
        p.outOk = false ∧ 2 ≤ p.outErr.toNat ∧ p.outErr.toNat ≤ 5 ∧ p.outErr = errCodeOf (some e))

/-- R172, R173, R211: `in_ready` is constant 1, and `out_valid` is 1 for exactly the output words that are events. -/
def Obligations.OutValidMarksExactlyTheEvents : Prop :=
  ∀ s : State,
    s.ports.map Ports.inReady = s.outs.map (fun _ => true) ∧
    s.ports.map Ports.outValid = s.outs.map (fun w => !(eventsOf [w]).isEmpty) ∧
    (s.ports.filter Ports.outValid).map Ports.outFrame = (eventsOf s.outs).map Event.frame
end

