-- ==== Sys2Proof/Laws/Decode.lean ====
section
/-! SUPPORT. The lanes of a flat frame (20_memory.md R43, 30_encoding.md R60): packing and unpacking are inverse. -/

namespace Sys2Proof

theorem byteLane_or (u v : BitVec 128) (k : Nat) : byteLane (u ||| v) k = byteLane u k ||| byteLane v k := by
  unfold byteLane; exact BitVec.extractLsb'_or

/-- A placed byte stands in its own lane and in no other. -/
theorem byteLane_placeLane (b : Byte) (k m : Nat) (hk : k < 16) (hm : m < 16) :
    byteLane (placeLane b k) m = if k = m then b else 0 := by
  apply BitVec.eq_of_getLsbD_eq
  intro j hj
  simp only [byteLane, placeLane, BitVec.getLsbD_extractLsb', BitVec.getLsbD_shiftLeft, BitVec.getLsbD_setWidth]
  split
  · subst_vars
    simp [hj, show 120 - 8 * m + j < 128 by omega, show j < 128 by omega]
  · have high : ∀ n, 8 ≤ n → b.getLsbD n = false := fun n h => BitVec.getLsbD_of_ge b n h
    by_cases h : 120 - 8 * m + j < 120 - 8 * k
    · simp [h]
    · rw [high (120 - 8 * m + j - (120 - 8 * k)) (by omega)]; simp

theorem byteLane_packFrame (f : Frame) (k : Nat) (hk : k < 16) : byteLane (packFrame f) k = f[k] := by
  simp only [packFrame, byteLane_or]
  interval_cases k <;> simp [byteLane_placeLane]

theorem unpackFrame_getElem (v : BitVec 128) (k : Nat) (hk : k < 16) : (unpackFrame v)[k] = byteLane v k := by
  unfold unpackFrame
  interval_cases k <;> rfl

theorem unpackFrame_packFrame (f : Frame) : unpackFrame (packFrame f) = f :=
  Vector.ext fun i hi => by rw [unpackFrame_getElem _ _ hi, byteLane_packFrame _ _ hi]

/-- A flat frame is determined by its sixteen lanes. -/
theorem eq_of_byteLane_eq (u v : BitVec 128) (h : ∀ k < 16, byteLane u k = byteLane v k) : u = v := by
  apply BitVec.eq_of_getLsbD_eq
  intro j hj
  have hk := congrArg (fun b => b.getLsbD (j % 8)) (h (15 - j / 8) (by omega))
  have e : 120 - 8 * (15 - j / 8) + j % 8 = j := by omega
  simpa [byteLane, BitVec.getLsbD_extractLsb', Nat.mod_lt, e] using hk

theorem packFrame_unpackFrame (v : BitVec 128) : packFrame (unpackFrame v) = v :=
  eq_of_byteLane_eq _ _ fun k hk => by rw [byteLane_packFrame _ _ hk, unpackFrame_getElem _ _ hk]

/-- A byte sequence is a frame exactly when it is that frame's sixteen bytes. -/
theorem ofBytes_eq_some_iff (l : List Byte) (f : Frame) : Frame.ofBytes? l = some f ↔ f.toList = l := by
  unfold Frame.ofBytes?
  split
  · constructor
    · rintro h; cases h; rfl
    · rintro rfl; rfl
  · rename_i h
    constructor
    · intro h'; cases h'
    · rintro rfl; simp at h

/-- A byte sequence is no frame exactly when it has not sixteen bytes. -/
theorem ofBytes_eq_none_iff (l : List Byte) : Frame.ofBytes? l = none ↔ l.length ≠ 16 := by
  unfold Frame.ofBytes?
  split <;> simp_all

theorem ofBytes_toList (f : Frame) : Frame.ofBytes? f.toList = some f := (ofBytes_eq_some_iff _ _).2 rfl

/-- Sixteen bytes are a frame. -/
theorem exists_frame_of_length (l : List Byte) (h : l.length = 16) : ∃ f : Frame, f.toList = l := by
  cases e : Frame.ofBytes? l with
  | none => exact absurd h ((ofBytes_eq_none_iff l).1 e)
  | some f => exact ⟨f, (ofBytes_eq_some_iff l f).1 e⟩

end Sys2Proof
end

