-- ==== Sys2Proof/Laws/State.lean ====
section
/-! SUPPORT. What each shared update of the state does to each field, one lemma per field, all true by unfolding. -/

namespace Sys2Proof.Machine

variable (w : OutWord) (r : Result) (s : State)

@[simp] theorem present_buf : (present w s).buf = s.buf := rfl
@[simp] theorem present_pipe : (present w s).pipe = (s.pipe ++ [w]).drop 1 := rfl
@[simp] theorem present_outs : (present w s).outs = (s.pipe ++ [w]).take 1 := rfl
@[simp] theorem present_result : (present w s).result = s.result := rfl
@[simp] theorem present_refBuf : (present w s).refBuf = s.refBuf := rfl
@[simp] theorem present_input : (present w s).input = s.input := rfl
@[simp] theorem present_draws : (present w s).draws = s.draws + 1 := rfl

@[simp] theorem answer_buf : (answer r s).buf = s.buf := rfl
@[simp] theorem answer_pipe : (answer r s).pipe = s.pipe := rfl
@[simp] theorem answer_outs : (answer r s).outs = [] := rfl
@[simp] theorem answer_result : (answer r s).result = r := rfl
@[simp] theorem answer_refBuf : (answer r s).refBuf = s.refBuf := rfl
@[simp] theorem answer_input : (answer r s).input = s.input := rfl
@[simp] theorem answer_draws : (answer r s).draws = s.draws := rfl

@[simp] theorem resetBeat_buf : (resetBeat s).buf = [] := rfl
@[simp] theorem resetBeat_pipe : (resetBeat s).pipe = List.replicate s.pipe.length .noEvent := rfl
@[simp] theorem resetBeat_outs : (resetBeat s).outs = [.noEvent] := rfl
@[simp] theorem resetBeat_result : (resetBeat s).result = .nothing := rfl
@[simp] theorem resetBeat_refBuf : (resetBeat s).refBuf = s.refBuf := rfl
@[simp] theorem resetBeat_input : (resetBeat s).input = s.input := rfl
@[simp] theorem resetBeat_draws : (resetBeat s).draws = s.draws + 1 := rfl

@[simp] theorem idleBeat_buf : (idleBeat s).buf = s.buf := rfl
@[simp] theorem idleBeat_pipe : (idleBeat s).pipe = (s.pipe ++ [OutWord.noEvent]).drop 1 := rfl
@[simp] theorem idleBeat_outs : (idleBeat s).outs = (s.pipe ++ [OutWord.noEvent]).take 1 := rfl
@[simp] theorem idleBeat_result : (idleBeat s).result = .nothing := rfl
@[simp] theorem idleBeat_refBuf : (idleBeat s).refBuf = s.refBuf := rfl
@[simp] theorem idleBeat_input : (idleBeat s).input = s.input := rfl
@[simp] theorem idleBeat_draws : (idleBeat s).draws = s.draws + 1 := rfl

variable (b : Byte)

@[simp] theorem pushState_buf : (pushState b s).buf = (pushBytes s.buf b).buf := rfl
@[simp] theorem pushState_pipe :
    (pushState b s).pipe = (s.pipe ++ [outWordOf (pushBytes s.buf b).emitted]).drop 1 := rfl
@[simp] theorem pushState_outs :
    (pushState b s).outs = (s.pipe ++ [outWordOf (pushBytes s.buf b).emitted]).take 1 := rfl
@[simp] theorem pushState_result : (pushState b s).result = .outcome (pushBytes s.buf b).outcome := rfl
@[simp] theorem pushState_refBuf : (pushState b s).refBuf = s.refBuf := rfl
@[simp] theorem pushState_input : (pushState b s).input = s.input := rfl
@[simp] theorem pushState_draws : (pushState b s).draws = s.draws + 1 := rfl

end Sys2Proof.Machine
end

