-- ==== Sys2Proof/Laws/Ops.lean ====
section
/-! SUPPORT. One lemma for each shared operation that says what it can do. -/

namespace Sys2Proof.Machine

open Config

/-- EVICT on the front byte: an SOH stays with all behind it, another byte goes (R94). -/
theorem evictBytes_cons (b : Byte) (bs : List Byte) :
    evictBytes (b :: bs) = if b = 0x01 then b :: bs else evictBytes bs := by
  by_cases h : b = 0x01 <;> simp [evictBytes, List.dropWhile_cons, SOH, h]

theorem evictBytes_nil : evictBytes [] = [] := rfl

theorem startsAtSoh_iff (bs : List Byte) : startsAtSoh bs = true ↔ bs = [] ∨ bs.head? = some 0x01 := by
  cases bs <;> simp [startsAtSoh, SOH]

/-- What EVICT leaves is empty or starts at an SOH (R94). -/
theorem startsAtSoh_evictBytes (bs : List Byte) : startsAtSoh (evictBytes bs) = true := by
  induction bs with
  | nil => rfl
  | cons b bs ih =>
    rw [evictBytes_cons]
    split
    · simp_all [startsAtSoh, SOH]
    · exact ih

theorem evictBytes_of_startsAtSoh (bs : List Byte) (h : startsAtSoh bs = true) : evictBytes bs = bs := by
  cases bs with
  | nil => rfl
  | cons b bs => rw [evictBytes_cons, if_pos (by simpa [startsAtSoh, SOH] using h)]

/-- EVICT splits the sequence: a front without SOH that goes, and what stays. -/
theorem evictBytes_split (bs : List Byte) :
    ∃ gone, bs = gone ++ evictBytes bs ∧ ∀ x ∈ gone, x ≠ 0x01 := by
  induction bs with
  | nil => exact ⟨[], rfl, by simp⟩
  | cons b bs ih =>
    rw [evictBytes_cons]
    split
    · exact ⟨[], rfl, by simp⟩
    · obtain ⟨gone, h, hg⟩ := ih
      refine ⟨b :: gone, by simp [← h], ?_⟩
      simp_all

theorem evictBytes_suffix (bs : List Byte) : evictBytes bs <:+ bs := List.dropWhile_suffix _

theorem evictBytes_length_le (bs : List Byte) : (evictBytes bs).length ≤ bs.length :=
  (evictBytes_suffix bs).length_le

/-- The executable rest test and the rest invariant of R22 agree. -/
theorem atRest_iff (bs : List Byte) : atRest bs = true ↔ restBuffer bs := by
  have e : bs.length < 16 ↔ bs.length ≤ 15 := by omega
  simp [atRest, restBuffer, startsAtSoh_iff, BUF_CAP, e]

/-- The decision of R102 on at most sixteen bytes: fewer are kept; a full window is taken or loses its first byte. -/
theorem resolve_cases (held : List Byte) (h : held.length ≤ 16) :
    (held.length < 16 ∧
      resolve held = { buf := held, outcome := if held = [] then .purge else .wait, emitted := none }) ∨
    (∃ w : Frame, w.toList = held ∧ w[1] = 0x02 ∧
      resolve held = { buf := [], outcome := .accept, emitted := some w }) ∨
    (∃ w : Frame, w.toList = held ∧ w[1] ≠ 0x02 ∧
      resolve held = { buf := evictBytes (held.drop 1), outcome := .resync, emitted := none }) := by
  by_cases hl : held.length = 16
  · right
    obtain ⟨w, rfl⟩ := exists_frame_of_length held hl
    by_cases hw : w[1] = 0x02
    · exact .inl ⟨w, rfl, hw, by
        simp only [resolve, ofBytes_toList]; rw [if_pos (show w[1] = STX from hw)]; simp [FRAME_LEN]⟩
    · exact .inr ⟨w, rfl, hw, by simp only [resolve, ofBytes_toList]; exact if_neg hw⟩
  · left
    exact ⟨by omega, by simp [resolve, (ofBytes_eq_none_iff held).2 hl]⟩

/-- What a PUSH holds for its decision, at rest: at most sixteen bytes, none or from an SOH (R102). -/
theorem held_of_rest (bytes : List Byte) (b : Byte) (h : restBuffer bytes) :
    (evictBytes (bytes ++ [b])).length ≤ 16 := by
  have := evictBytes_length_le (bytes ++ [b])
  have := h.1
  simp at *; omega

/-- A PUSH beat at rest goes on (R102). -/
theorem pushBeat_rest (b : Byte) (s : State) (h : restBuffer s.buf) : pushBeat b s = .next (pushState b s) := by
  rw [pushBeat, if_pos ((atRest_iff _).2 h)]

/-- A PUSH beat off rest is refused (R178). -/
theorem pushBeat_off_rest (b : Byte) (s : State) (h : ¬ restBuffer s.buf) : pushBeat b s = .refused .notAtRest := by
  rw [pushBeat, if_neg (fun h' => h ((atRest_iff _).1 h'))]

/-- What a PUSH leaves is at rest again (R102). -/
theorem pushBytes_rest (bytes : List Byte) (b : Byte) (h : restBuffer bytes) : restBuffer (pushBytes bytes b).buf := by
  have hl := held_of_rest bytes b h
  have hs := startsAtSoh_evictBytes (bytes ++ [b])
  unfold pushBytes
  generalize evictBytes (bytes ++ [b]) = held at *
  rcases resolve_cases held hl with ⟨h1, hc⟩ | ⟨w, hw, h2, hc⟩ | ⟨w, hw, h2, hc⟩
  · rw [hc]
    refine ⟨by simp; omega, ?_⟩
    rw [startsAtSoh_iff] at hs
    simpa using hs
  · rw [hc]; simp [restBuffer]
  · rw [hc]
    have := evictBytes_length_le (held.drop 1)
    refine ⟨by simp at *; omega, ?_⟩
    have := startsAtSoh_evictBytes (held.drop 1)
    rw [startsAtSoh_iff] at this
    simpa using this

/-- What a PUSH decides on meets the outcome rows' test (R103). -/
theorem heldForDecision_evictBytes (bytes : List Byte) (b : Byte) (h : restBuffer bytes) :
    heldForDecision (evictBytes (bytes ++ [b])) = true := by
  simp [heldForDecision, BUF_CAP, held_of_rest bytes b h, startsAtSoh_evictBytes]

/-- An outcome row is taken as its branch, or answers `notTaken` (log 10). -/
theorem takeOutcome_cases (o : PushOutcome) (s : State) :
    (heldForDecision s.buf = true ∧ (resolve s.buf).outcome = o ∧
      takeOutcome o s =
        { present (outWordOf (resolve s.buf).emitted) s with buf := (resolve s.buf).buf, result := .outcome o }) ∨
    (¬ (heldForDecision s.buf = true ∧ (resolve s.buf).outcome = o) ∧ takeOutcome o s = answer .notTaken s) := by
  by_cases h : heldForDecision s.buf = true ∧ (resolve s.buf).outcome = o
  · exact .inl ⟨h.1, h.2, by simp [takeOutcome, h]⟩
  · exact .inr ⟨h, by simp [takeOutcome, h]⟩

/-- INGEST of a byte and a chunk goes on exactly when the PUSH and the INGEST of the chunk do (R108). -/
theorem ingestBeats_cons_eq_next (b : Byte) (bs : List Byte) (s v : State) :
    ingestBeats (b :: bs) s = .next v ↔
      restBuffer s.buf ∧ ∃ u, ingestBeats bs (pushState b s) = .next u ∧
        v = { u with
          outs := (pushState b s).outs ++ u.outs
          result := .frames ((pushBytes s.buf b).emitted.toList ++ u.result.returned) } := by
  by_cases h : restBuffer s.buf
  · simp only [ingestBeats, pushBeat_rest b s h, h, true_and]
    cases e : ingestBeats bs (pushState b s) with
    | next u => simp [eq_comm]
    | fault f => cases f
    | refused r => simp
  · simp [ingestBeats, pushBeat_off_rest b s h, h]

/-- A field row answers its value, or `noMatch` (log 11). -/
theorem fieldRow_cases (holds : Bool) (r : Result) (s : State) :
    (holds = true ∧ fieldRow holds r s = answer r s) ∨ (holds = false ∧ fieldRow holds r s = answer .noMatch s) := by
  cases holds <;> simp [fieldRow]

/-- DECODE of sixteen bytes: the first failing check, or the Reading (R146, R153). -/
theorem decodeBytes_toList (f : Frame) :
    decodeBytes f.toList = match firstError f with
      | some e => .error e
      | none => .reading (readingOf f) := by
  cases h : firstError f <;> simp [decodeBytes, ofBytes_toList, h]

/-- DECODE of any other length (R141). -/
theorem decodeBytes_of_length_ne (bytes : List Byte) (h : bytes.length ≠ 16) :
    decodeBytes bytes = .error .malformedLength := by
  simp [decodeBytes, (ofBytes_eq_none_iff bytes).2 h]

end Sys2Proof.Machine
end

