-- ==== Sys2Proof/Laws/Reference.lean ====
section
/-! SUPPORT. One turn of the reference loop in each of its cases (41_frame_synchronizer.md R101). -/

namespace Sys2Proof.Machine

open Config

theorem findIdx_soh_eq_none (l : List Byte) : l.findIdx? (fun b => b == SOH) = none ↔ 0x01 ∉ l := by
  rw [List.findIdx?_eq_none_iff]
  constructor
  · intro h hm
    have := h _ hm
    simp [SOH] at this
  · intro h x hx
    simp only [beq_eq_false_iff_ne]
    rintro rfl
    exact h hx

theorem findIdx_soh_append (garbage found : List Byte) (hg : 0x01 ∉ garbage) (hf : found.head? = some 0x01) :
    (garbage ++ found).findIdx? (fun b => b == SOH) = some garbage.length := by
  rw [List.findIdx?_append, (findIdx_soh_eq_none garbage).2 hg]
  cases found with
  | nil => simp at hf
  | cons x xs => simp at hf; subst hf; simp [List.findIdx?_cons, SOH]

/-- Fewer than sixteen bytes: the loop ends. -/
theorem refLoop_short (n : Nat) (l : List Byte) (h : l.length < 16) : refLoop n l = (l, []) := by
  cases n with
  | zero => rfl
  | succ n => simp [refLoop, FRAME_LEN, h]

/-- Step 2a without an SOH: the list is discarded. -/
theorem refLoop_no_soh (n : Nat) (l : List Byte) (h : 16 ≤ l.length) (h1 : 0x01 ∉ l) : refLoop (n + 1) l = ([], []) := by
  simp [refLoop, FRAME_LEN, show ¬ l.length < 16 by omega, (findIdx_soh_eq_none l).2 h1]

/-- Step 2b: fewer than sixteen bytes from the found SOH. -/
theorem refLoop_wait (n : Nat) (garbage found : List Byte) (hg : 0x01 ∉ garbage) (hf : found.head? = some 0x01)
    (h : found.length < 16) : refLoop n (garbage ++ found) = (garbage ++ found, []) := by
  cases n with
  | zero => rfl
  | succ n =>
    by_cases hs : (garbage ++ found).length < 16
    · exact refLoop_short _ _ hs
    · have : Frame.ofBytes? (List.take 16 (List.drop garbage.length (garbage ++ found))) = none := by
        rw [ofBytes_eq_none_iff]
        simp
        omega
      simp only [refLoop, FRAME_LEN, if_neg hs, findIdx_soh_append garbage found hg hf, this]

/-- Steps 2c and 2d: the window at the first SOH is yielded, or loses its SOH. -/
theorem refLoop_window (n : Nat) (garbage left : List Byte) (w : Frame) (hg : 0x01 ∉ garbage) (h0 : w[0] = 0x01) :
    refLoop (n + 1) (garbage ++ w.toList ++ left) =
      if w[1] = 0x02 then ((refLoop n left).1, w :: (refLoop n left).2)
      else refLoop n (garbage ++ (w.toList.drop 1 ++ left)) := by
  have hs : ¬ (garbage ++ w.toList ++ left).length < 16 := by simp; omega
  have hf : (w.toList ++ left).head? = some 0x01 := by
    rw [List.head?_append, List.head?_eq_getElem?]
    simp [h0]
  have hw : Frame.ofBytes? (List.take 16 (List.drop garbage.length (garbage ++ w.toList ++ left))) = some w := by
    rw [ofBytes_eq_some_iff, List.append_assoc]
    simp
  have hi : (garbage ++ w.toList ++ left).findIdx? (fun b => b == SOH) = some garbage.length := by
    rw [List.append_assoc]
    exact findIdx_soh_append garbage _ hg hf
  have d1 : List.drop (garbage.length + 16) (garbage ++ w.toList ++ left) = left := by
    apply List.drop_left'
    simp
  have d2 : List.take garbage.length (garbage ++ w.toList ++ left) ++
      List.drop (garbage.length + 1) (garbage ++ w.toList ++ left) = garbage ++ (w.toList.drop 1 ++ left) := by
    rw [List.append_assoc, List.take_left', ← List.drop_drop, List.drop_left', List.drop_append_of_le_length] <;> simp
  simp only [refLoop, FRAME_LEN, if_neg hs, hi, hw, d1, d2, STX]

end Sys2Proof.Machine
end

