-- ==== Sys2Proof/Tests/Slice0.lean ====
section
/-! SUPPORT. The model's own tests: the smoke test of WellFormed, decoding of words written out from the spec's encodings, one or two
behaviours for each instruction from 95_test_vectors.md, and a witness that the hypotheses of each statement can be met. -/

open Sys2Proof Sys2Proof.Machine

namespace Sys2Proof.Tests

/-! ## Helpers -/

/-- Frame A of 95_test_vectors.md section 0. -/
def frameA : Frame := #v[0x01, 0x02, 0x53, 0x20, 0x30, 0x30, 0x31, 0x30, 0x30, 0x30, 0x6B, 0x67, 0x7E, 0x03, 0x04, 0x00]

/-- Frame U: units B0 67. -/
def frameU : Frame := #v[0x01, 0x02, 0x53, 0x20, 0x30, 0x30, 0x31, 0x30, 0x30, 0x30, 0xB0, 0x67, 0xA5, 0x03, 0x04, 0x00]

/-- Vector V5. -/
def frameV5 : Frame := #v[0x01, 0x02, 0x46, 0x20, 0x39, 0x39, 0x39, 0x39, 0x39, 0x39, 0x6C, 0x62, 0x68, 0x03, 0x04, 0x40]

/-- Vector V6. -/
def frameV6 : Frame := #v[0x01, 0x02, 0x55, 0x2D, 0x30, 0x30, 0x30, 0x30, 0x30, 0x30, 0x67, 0x20, 0x3F, 0x03, 0x04, 0x10]

/-- Vector V7. -/
def frameV7 : Frame := #v[0x01, 0x02, 0x58, 0x20, 0x31, 0x32, 0x2E, 0x33, 0x34, 0x35, 0x6B, 0x67, 0x6B, 0x03, 0x04, 0x20]

/-- The window of V23: a false start. -/
def frameV23 : Frame := #v[0x01, 0x30, 0x30, 0x30, 0x30, 0x01, 0x02, 0x53, 0x20, 0x30, 0x30, 0x31, 0x30, 0x30, 0x30, 0x6B]

/-- A state with the given buffer. -/
def holding (buf : List Byte) : State := { State.reset with buf := buf }

/-- A state with the given input words. -/
def fed (input : List Code) : State := { State.reset with input := input }

/-- The next state, if there is one. -/
def after (i : Instr) (s : State) : Option State :=
  match exec i s with
  | .next t => some t
  | .fault _ => none
  | .refused _ => none

/-- The buffer after an instruction. -/
def bufAfter (i : Instr) (s : State) : Option (List Byte) := (after i s).map State.buf

/-- The answer of an instruction. -/
def resultOf (i : Instr) (s : State) : Option Result := (after i s).map State.result

/-- The frames presented by an instruction. -/
def framesShown (i : Instr) (s : State) : Option (List Frame) :=
  (after i s).map fun t => (eventsOf t.outs).map Event.frame

/-- The refusal of an instruction. -/
def refusalOf (i : Instr) (s : State) : Option Refusal :=
  match exec i s with
  | .next _ => none
  | .fault _ => none
  | .refused r => some r

/-! ## WellFormed: each check refuses an ill-formed term -/

theorem smoke_dropfront : Instr.wf (.dropfront 17) = false := by decide

theorem smoke_candidate_soh : Instr.wf (.candidate ((frameA.set 13 0x00).set 0 0x00)) = false := by decide

theorem smoke_candidate_stx : Instr.wf (.candidate frameV23) = false := by decide

theorem smoke_candidate_frame : Instr.wf (.candidate frameA) = false := by decide

theorem smoke_falsestart_soh : Instr.wf (.falsestart (frameV23.set 0 0x00)) = false := by decide

theorem smoke_falsestart_stx : Instr.wf (.falsestart frameA) = false := by decide

theorem smoke_sign_minus : Instr.wf (.signMinus frameA) = false := by decide

theorem smoke_sign_space : Instr.wf (.signSpace frameV6) = false := by decide

theorem smoke_status_overload : Instr.wf (.statusOverload frameA) = false := by decide

theorem smoke_status_stable : Instr.wf (.statusStable frameV5) = false := by decide

theorem smoke_status_unstable : Instr.wf (.statusUnstable frameA) = false := by decide

theorem smoke_status_unknown_f : Instr.wf (.statusUnknown frameV5) = false := by decide

theorem smoke_status_unknown_s : Instr.wf (.statusUnknown frameA) = false := by decide

theorem smoke_status_unknown_u : Instr.wf (.statusUnknown frameV6) = false := by decide

theorem smoke_status2_none : Instr.wf (.status2None frameV5) = false := by decide

theorem smoke_status2_zero : Instr.wf (.status2Zero frameA) = false := by decide

theorem smoke_status2_tare : Instr.wf (.status2Tare frameA) = false := by decide

theorem smoke_status2_overload : Instr.wf (.status2Overload frameA) = false := by decide

theorem smoke_status2_unknown_none : Instr.wf (.status2Unknown frameA) = false := by decide

theorem smoke_status2_unknown_zero : Instr.wf (.status2Unknown frameV6) = false := by decide

theorem smoke_status2_unknown_tare : Instr.wf (.status2Unknown frameV7) = false := by decide

theorem smoke_status2_unknown_overload : Instr.wf (.status2Unknown frameV5) = false := by decide

theorem smoke_units_first : Instr.wf (.units frameU) = false := by decide

theorem smoke_units_second : Instr.wf (.units (frameA.set 11 0x80)) = false := by decide

theorem smoke_well_formed :
    Instr.wf (.dropfront 16) = true ∧ Instr.wf (.falsestart frameV23) = true ∧ Instr.wf (.units frameA) = true := by decide

/-! ## Decoding of words written out from the encodings (30_encoding.md R43, R60 to R72) -/

/-- P1 writes RESET as 200. -/
theorem decode_reset : decode (.beat 0x200) = .ok .reset := by decide

/-- R71: rst 1, in_valid and in_data any (V51 beat 0). -/
theorem decode_reset_with_a_byte : decode (.beat 0x301) = .ok .reset := by decide

/-- P1: 17E is PUSH 7E. -/
theorem decode_push : decode (.beat 0x17E) = .ok (.push 0x7E) := by decide

/-- P5: 000 is IDLE. -/
theorem decode_idle : decode (.beat 0x000) = .ok .idle := by decide

/-- R43's own flat form of frame A. -/
theorem decode_frame : decode (.frame .window 0x010253203030313030306B677E030400) = .ok (.frame (.ofFrame frameA)) := by decide

/-- V19e: starts 01 02, offsets 13 and 14 are 02 01. -/
theorem decode_candidate :
    decode (.frame .window 0x01020102010201020102010201020102) = .ok (.candidate #v[1, 2, 1, 2, 1, 2, 1, 2, 1, 2, 1, 2, 1, 2, 1, 2]) := by decide

/-- V23's first window. -/
theorem decode_falsestart : decode (.frame .window 0x0130303030010253203030313030306B) = .ok (.falsestart frameV23) := by decide

theorem decode_bcc : decode (.frame .functionBcc 0x010253203030313030306B677E030400) = .ok (.bcc frameA) := by decide

theorem decode_decode : decode (.frame .functionDecode 0x010253203030313030306B677E030400) = .ok (.decode frameA.toList) := by decide

theorem decode_check_markers : decode (.frame .checkMarkers 0x010253203030313030306B677E030400) = .ok (.checkMarkers frameA) := by decide

theorem decode_check_sign : decode (.frame .checkSign 0x010253203030313030306B677E030400) = .ok (.checkSign frameA) := by decide

theorem decode_check_units : decode (.frame .checkUnits 0x010253203030313030306B677E030400) = .ok (.checkUnits frameA) := by decide

theorem decode_check_bcc : decode (.frame .checkBcc 0x010253203030313030306B677E030400) = .ok (.checkBcc frameA) := by decide

theorem decode_sign_minus : decode (.frame .fieldSign 0x0102552D30303030303067203F030410) = .ok (.signMinus frameV6) := by decide

theorem decode_sign_space : decode (.frame .fieldSign 0x010253203030313030306B677E030400) = .ok (.signSpace frameA) := by decide

theorem decode_status_overload :
    decode (.frame .fieldStatus 0x010246203939393939396C6268030440) = .ok (.statusOverload frameV5) := by decide

theorem decode_status_stable : decode (.frame .fieldStatus 0x010253203030313030306B677E030400) = .ok (.statusStable frameA) := by decide

theorem decode_status_unstable :
    decode (.frame .fieldStatus 0x0102552D30303030303067203F030410) = .ok (.statusUnstable frameV6) := by decide

theorem decode_status_unknown : decode (.frame .fieldStatus 0x0102582031322E3334356B676B030420) = .ok (.statusUnknown frameV7) := by decide

theorem decode_status2_none : decode (.frame .fieldStatus2 0x010253203030313030306B677E030400) = .ok (.status2None frameA) := by decide

theorem decode_status2_zero : decode (.frame .fieldStatus2 0x0102552D30303030303067203F030410) = .ok (.status2Zero frameV6) := by decide

theorem decode_status2_tare : decode (.frame .fieldStatus2 0x0102582031322E3334356B676B030420) = .ok (.status2Tare frameV7) := by decide

theorem decode_status2_overload :
    decode (.frame .fieldStatus2 0x010246203939393939396C6268030440) = .ok (.status2Overload frameV5) := by decide

/-- V8: 30 is Unknown. -/
theorem decode_status2_unknown :
    decode (.frame .fieldStatus2 0x010253203030313030306B677E030430) = .ok (.status2Unknown (frameA.set 15 0x30)) := by decide

theorem decode_weight : decode (.frame .fieldDigits 0x0102582031322E3334356B676B030420) = .ok (.weight frameV7) := by decide

theorem decode_units : decode (.frame .fieldUnits 0x0102552D30303030303067203F030410) = .ok (.units frameV6) := by decide

theorem decode_const_soh : decode (.byte 0x01) = .ok .constSoh := by decide

theorem decode_const_stx : decode (.byte 0x02) = .ok .constStx := by decide

theorem decode_const_etx : decode (.byte 0x03) = .ok .constEtx := by decide

theorem decode_const_eot : decode (.byte 0x04) = .ok .constEot := by decide

theorem decode_err_none : decode (.errCode 0) = .ok .errNone := by decide

theorem decode_err_malformed_length : decode (.errCode 1) = .ok .errMalformedLength := by decide

theorem decode_err_invalid_markers : decode (.errCode 2) = .ok .errInvalidMarkers := by decide

theorem decode_err_invalid_sign : decode (.errCode 3) = .ok .errInvalidSign := by decide

theorem decode_err_invalid_units : decode (.errCode 4) = .ok .errInvalidUnits := by decide

theorem decode_err_checksum_mismatch : decode (.errCode 5) = .ok .errChecksumMismatch := by decide

/-- V12a: there is no '+' sign value (R62). -/
theorem decode_reject_sign : decode (.frame .fieldSign 0x0102532B3030313030306B6775030400) = .error .notASign := by decide

/-- Frame U. -/
theorem decode_reject_units : decode (.frame .fieldUnits 0x01025320303031303030B067A5030400) = .error .unitsNotAscii := by decide

theorem decode_reject_code : decode (.errCode 6) = .error .codeNeverProduced := by decide

theorem decode_table_word :
    decodeTableWord 16 0x153 = some (.push 0x53) ∧ decodeTableWord 10 0x200 = some .reset ∧
      decodeTableWord 8 0x04 = some .constEot ∧ decodeTableWord 3 0x05 = some .errChecksumMismatch ∧
      decodeTableWord 128 0x010253203030313030306B677E030400 = some (.frame (.ofFrame frameA)) ∧
      decodeTableWord 128 0x2D000000000000000000000000 = some (.signMinus (.ofFn fun k => if k = 3 then 0x2D else 0)) := by decide

/-! ## What each instruction does (95_test_vectors.md) -/

/-- R210's example. -/
theorem test_reset : bufAfter .reset (holding [0x01, 0x02, 0x53]) = some [] := by decide

/-- R102's example. -/
theorem test_push_waits : bufAfter (.push 0x20) (holding [0x01, 0x02, 0x53]) = some [0x01, 0x02, 0x53, 0x20] := by decide

/-- P1 step 15. -/
theorem test_push_accepts :
    (after (.push 0x00) (holding (frameA.toList.take 15))).map (fun t => (t.buf, t.result)) = some ([], .outcome .accept) ∧
      framesShown (.push 0x00) (holding (frameA.toList.take 15)) = some [frameA] := by decide

/-- V21. -/
theorem test_idle :
    bufAfter .idle (holding [0x01, 0x02]) = some [0x01, 0x02] ∧ framesShown .idle (holding [0x01, 0x02]) = some [] := by decide

/-- V51 beat 0. -/
theorem test_corestep_resets_first : bufAfter (.corestep true true 0x01) (holding [0x01]) = some [] := by decide

/-- R71. -/
theorem test_corestep_pushes : bufAfter (.corestep false true 0x02) (holding [0x01]) = some [0x01, 0x02] := by decide

/-- S4 with V6 as the second frame. -/
theorem test_ingest_two_frames :
    resultOf (.ingest (frameA.toList ++ [0xAA, 0xBB, 0xCC] ++ frameV6.toList)) State.reset = some (.frames [frameA, frameV6]) := by decide

/-- V24: fifteen bytes at rest. -/
theorem test_ingest_doubled_soh : bufAfter (.ingest (0x01 :: frameA.toList.take 15)) State.reset = some (frameA.toList.take 15) := by decide

/-- V32 row 1. -/
theorem test_ingestref_keeps_garbage :
    (after (.ingestref [0x55, 0x66, 0x01, 0x02, 0x53]) State.reset).map State.refBuf = some [0x55, 0x66, 0x01, 0x02, 0x53] := by decide

/-- V32 row 5. -/
theorem test_ingestref_yields :
    (after (.ingestref ([0xAA, 0xBB] ++ frameA.toList ++ [0xCC, 0x01])) State.reset).map (fun t => (t.refBuf, t.result)) =
      some ([0xCC, 0x01], .frames [frameA]) := by decide

/-- R104. -/
theorem test_push_accept :
    bufAfter .pushAccept (holding frameA.toList) = some [] ∧ framesShown .pushAccept (holding frameA.toList) = some [frameA] := by decide

/-- V23. -/
theorem test_push_resync :
    bufAfter .pushResync (holding frameV23.toList) = some [0x01, 0x02, 0x53, 0x20, 0x30, 0x30, 0x31, 0x30, 0x30, 0x30, 0x6B] := by decide

/-- V21, R106. -/
theorem test_push_wait : resultOf .pushWait (holding (frameA.toList.take 15)) = some (.outcome .wait) := by decide

/-- R107. -/
theorem test_push_purge :
    resultOf .pushPurge (holding []) = some (.outcome .purge) ∧ resultOf .pushPurge (holding [0x01]) = some .notTaken := by decide

/-- V41. -/
theorem test_append_sixteenth : bufAfter (.append 0x00) (holding (frameA.toList.take 15)) = some frameA.toList := by decide

/-- R91's precondition. -/
theorem test_append_full : refusalOf (.append 0x00) (holding frameA.toList) = some .bufferFull := by decide

/-- V42. -/
theorem test_window :
    resultOf .window (holding frameA.toList) = some (.frame frameA) ∧ bufAfter .window (holding frameA.toList) = some frameA.toList := by decide

/-- R92's precondition. -/
theorem test_window_not_full : refusalOf .window (holding (frameA.toList.take 15)) = some .windowNotFull := by decide

/-- V44. -/
theorem test_dropfront_one : bufAfter (.dropfront 1) (holding [0x01, 0x55, 0x01, 0x02]) = some [0x55, 0x01, 0x02] := by decide

/-- V43. -/
theorem test_dropfront_all : bufAfter (.dropfront 16) (holding frameA.toList) = some [] := by decide

/-- V45. -/
theorem test_evict_one : bufAfter .evict (holding [0x55, 0x01, 0x02]) = some [0x01, 0x02] := by decide

/-- V46. -/
theorem test_evict_all : bufAfter .evict (holding [0x55, 0x66, 0x77]) = some [] := by decide

/-- V49. -/
theorem test_clear : bufAfter .clear (holding [0x01, 0x02, 0x53]) = some [] := by decide

/-- R68. -/
theorem test_candidate :
    resultOf (.candidate frameA) State.reset = some (.matched true) ∧ resultOf (.candidate frameV23) State.reset = some (.matched false) := by decide

/-- R68. -/
theorem test_falsestart :
    resultOf (.falsestart frameV23) State.reset = some (.matched true) ∧ resultOf (.falsestart frameA) State.reset = some (.matched false) := by decide

/-- R60 on V6. -/
theorem test_frame : resultOf (.frame (.ofFrame frameV6)) State.reset = some (.frame frameV6) := by decide

/-- V6. -/
theorem test_decode_reading :
    resultOf (.decode frameV6.toList) State.reset =
      some (.decoded (.reading { status := .unstable, weight := [0x2D, 0x30, 0x30, 0x30, 0x30, 0x30, 0x30], units := #v[0x67, 0x20], status2 := .zero, isPositive := false })) := by decide

/-- V15b. -/
theorem test_decode_first_error :
    resultOf (.decode [0x01, 0x02, 0x53, 0x2B, 0x30, 0x30, 0x31, 0x30, 0x30, 0x30, 0xFF, 0x67, 0x7E, 0x03, 0x04, 0x00]) State.reset =
      some (.decoded (.error .invalidSign)) := by decide

/-- V1. -/
theorem test_bcc : resultOf (.bcc frameA) State.reset = some (.checksum 0x7E) := by decide

/-- V4. -/
theorem test_bcc_without_markers : resultOf (.bcc (Vector.replicate 16 0xFF)) State.reset = some (.checksum 0x03) := by decide

/-- V19f. -/
theorem test_check_length :
    resultOf (.checkLength (frameA.toList.take 15)) State.reset = some (.verdict (some .malformedLength)) ∧
      resultOf (.checkLength frameA.toList) State.reset = some (.verdict none) := by decide

/-- V11a. -/
theorem test_check_markers :
    resultOf (.checkMarkers (frameA.set 13 0x0D)) State.reset = some (.verdict (some .invalidMarkers)) ∧
      resultOf (.checkMarkers frameA) State.reset = some (.verdict none) := by decide

/-- V12c. -/
theorem test_check_sign :
    resultOf (.checkSign (frameA.set 3 0x30)) State.reset = some (.verdict (some .invalidSign)) ∧
      resultOf (.checkSign frameV6) State.reset = some (.verdict none) := by decide

/-- V13b, V13c. -/
theorem test_check_units :
    resultOf (.checkUnits (frameA.set 11 0x80)) State.reset = some (.verdict (some .invalidUnits)) ∧
      resultOf (.checkUnits ((frameA.set 10 0x7F).set 11 0x00)) State.reset = some (.verdict none) := by decide

/-- S3, V5. -/
theorem test_check_bcc :
    resultOf (.checkBcc (frameA.set 12 0x7F)) State.reset = some (.verdict (some .checksumMismatch)) ∧
      resultOf (.checkBcc frameV5) State.reset = some (.verdict none) := by decide

/-- R62. -/
theorem test_sign_minus : resultOf (.signMinus frameV6) State.reset = some (.sign false true [0x2D]) := by decide

/-- R62. -/
theorem test_sign_space :
    resultOf (.signSpace frameA) State.reset = some (.sign true false []) ∧ resultOf (.signSpace frameV6) State.reset = some .noMatch := by decide

/-- S10. -/
theorem test_status_overload : resultOf (.statusOverload frameV5) State.reset = some (.status .overload 0) := by decide

/-- S10. -/
theorem test_status_stable : resultOf (.statusStable frameA) State.reset = some (.status .stable 1) := by decide

/-- S10. -/
theorem test_status_unstable : resultOf (.statusUnstable frameV6) State.reset = some (.status .unstable 2) := by decide

/-- S10. -/
theorem test_status_unknown : resultOf (.statusUnknown frameV7) State.reset = some (.status .unknown 3) := by decide

/-- S10. -/
theorem test_status2_none : resultOf (.status2None frameA) State.reset = some (.status2 .none 0) := by decide

/-- S10. -/
theorem test_status2_zero : resultOf (.status2Zero frameV6) State.reset = some (.status2 .zero 1) := by decide

/-- S10. -/
theorem test_status2_tare : resultOf (.status2Tare frameV7) State.reset = some (.status2 .tare 2) := by decide

/-- S10. -/
theorem test_status2_overload : resultOf (.status2Overload frameV5) State.reset = some (.status2 .overload 3) := by decide

/-- S10, V8. -/
theorem test_status2_unknown : resultOf (.status2Unknown (frameA.set 15 0x30)) State.reset = some (.status2 .unknown 4) := by decide

/-- V7. -/
theorem test_weight : resultOf (.weight frameV7) State.reset = some (.digits #v[0x31, 0x32, 0x2E, 0x33, 0x34, 0x35]) := by decide

/-- V6. -/
theorem test_units : resultOf (.units frameV6) State.reset = some (.units #v[0x67, 0x20]) := by decide

/-- R61, R60. -/
theorem test_const_soh : resultOf .constSoh State.reset = some (.marker 0x01 0) := by decide

/-- R61, R60. -/
theorem test_const_stx : resultOf .constStx State.reset = some (.marker 0x02 1) := by decide

/-- R61, R60. -/
theorem test_const_etx : resultOf .constEtx State.reset = some (.marker 0x03 13) := by decide

/-- R61, R60. -/
theorem test_const_eot : resultOf .constEot State.reset = some (.marker 0x04 14) := by decide

/-- R72. -/
theorem test_err_none : resultOf .errNone State.reset = some (.errPort 0 true none) := by decide

/-- R72. -/
theorem test_err_malformed_length : resultOf .errMalformedLength State.reset = some (.errPort 1 false (some .malformedLength)) := by decide

/-- R72. -/
theorem test_err_invalid_markers : resultOf .errInvalidMarkers State.reset = some (.errPort 2 false (some .invalidMarkers)) := by decide

/-- R72. -/
theorem test_err_invalid_sign : resultOf .errInvalidSign State.reset = some (.errPort 3 false (some .invalidSign)) := by decide

/-- R72. -/
theorem test_err_invalid_units : resultOf .errInvalidUnits State.reset = some (.errPort 4 false (some .invalidUnits)) := by decide

/-- R72. -/
theorem test_err_checksum_mismatch :
    resultOf .errChecksumMismatch State.reset = some (.errPort 5 false (some .checksumMismatch)) := by decide

/-- A PUSH as the first word after reset. -/
theorem test_step_first_word :
    (match step (State.reset.withFetchWord 10 0x101) with | .next t => t.buf | .fault _ => [] | .refused _ => []) = [0x01] := by decide

/-! ## Witnesses: the hypotheses of each statement are met together -/

theorem witness_DecodeOfEncodeIsTheInstruction : (Instr.units frameA).wf = true ∧ (encode (.units frameA)).isSome = true := by decide

theorem witness_DecodedWordsAreWellFormedAndExact :
    decode (.frame .fieldUnits 0x010253203030313030306B677E030400) = .ok (.units frameA) ∧ decode (.beat 0x153) = .ok (.push 0x53) := by decide

theorem witness_WordsOfNoRowAreRefused :
    6 ≤ (6 : BitVec 3).toNat ∧ (0x00 : Byte) ≠ 0x01 ∧ (0x05 : Byte) ≠ 0x04 ∧ (frameV6.set 0 0x02)[0] ≠ 0x01 ∧
      (frameA.set 3 0x2B)[3] ≠ 0x2D ∧ (frameA.set 3 0x2B)[3] ≠ 0x20 ∧ 0x80 ≤ (frameA.set 10 0x80)[10].toNat ∧
      0x80 ≤ (frameA.set 11 0xFF)[11].toNat ∧ decode (.errCode 7) = .error .codeNeverProduced ∧
      (fed [.errCode 7]).input = .errCode 7 :: [] := by decide

theorem witness_StepRunsTheDecodedInstruction :
    (fed [.beat 0x153]).input = .beat 0x153 :: [] ∧ decode (.beat 0x153) = .ok (.push 0x53) ∧ (Instr.push 0x53).wf = true := by decide

theorem witness_StepWithoutInputIsAnIdleBeat : State.reset.input = [] := by decide

theorem witness_StepConsumesOneWord : ∃ t, step (fed [.beat 0x153, .beat 0x000]) = .next t := ⟨_, rfl⟩

theorem witness_EveryBeatCompletes :
    (fed [.beat 0x101]).Inv ∧ ∃ w rest, (fed [.beat 0x101]).input = .beat w :: rest := ⟨⟨⟨by decide, by decide⟩, by simp [fed, State.reset], by simp [fed, State.reset, genuineWord]⟩, _, _, rfl⟩

theorem witness_EveryBeatCompletes_without_input :
    (holding [0x01]).Inv ∧ (holding [0x01]).input = [] := ⟨⟨⟨by decide, by decide⟩, by simp [holding, State.reset], by simp [holding, State.reset, genuineWord]⟩, rfl⟩

theorem witness_ResetOverridesTheByte : (fed [.beat 0x301]).input = .beat (beatWord true true 0x01) :: [] := by decide

theorem witness_NothingCrossesAReset : (holding [0x01]).pipe.length = State.reset.pipe.length := by decide

theorem witness_PushAppendsEvictsAndDecides_wait :
    restBuffer [0x01] ∧ [0x01, 0x02] = ([0x01] ++ [0x02] : List Byte).dropWhile (fun x => x != 0x01) ∧
      [(0x01 : Byte), 0x02].length < 16 := ⟨⟨by decide, by decide⟩, by decide, by decide⟩

theorem witness_PushAppendsEvictsAndDecides_purge :
    restBuffer [] ∧ [] = (([] : List Byte) ++ [0x02]).dropWhile (fun x => x != 0x01) ∧ ([] : List Byte).length < 16 := ⟨⟨by decide, by decide⟩, by decide, by decide⟩

theorem witness_PushAppendsEvictsAndDecides_longest_wait :
    restBuffer (frameA.toList.take 14) ∧
      frameA.toList.take 15 = (frameA.toList.take 14 ++ [0x04]).dropWhile (fun x => x != 0x01) ∧ (frameA.toList.take 15).length < 16 := ⟨⟨by decide, by decide⟩, by decide, by decide⟩

theorem witness_PushAppendsEvictsAndDecides_accept :
    restBuffer (frameA.toList.take 15) ∧ frameA.toList = ((frameA.toList.take 15) ++ [0x00]).dropWhile (fun x => x != 0x01) ∧
      frameA[1] = 0x02 := ⟨⟨by decide, by decide⟩, by decide, by decide⟩

theorem witness_PushAppendsEvictsAndDecides_resync :
    restBuffer (frameV23.toList.take 15) ∧
      frameV23.toList = ((frameV23.toList.take 15) ++ [0x6B]).dropWhile (fun x => x != 0x01) ∧ frameV23[1] ≠ 0x02 := ⟨⟨by decide, by decide⟩, by decide, by decide⟩

theorem witness_PushIsItsPrimitivesAndOneOutcome : restBuffer (holding (frameA.toList.take 15)).buf := ⟨by decide, by decide⟩

theorem witness_PushesOffRestAreRefused :
    ¬ restBuffer (holding [0x02]).buf ∧ ¬ restBuffer (holding frameA.toList).buf := ⟨fun h => absurd h.2 (by decide), fun h => absurd h.1 (by decide)⟩

theorem witness_CorestepSelectsResetPushOrIdle : restBuffer (holding [0x01]).buf := ⟨by decide, by decide⟩

theorem witness_AnEventIsPresentedAfterOutLatency :
    restBuffer (holding (frameA.toList.take 15)).buf ∧ frameA.toList = (holding (frameA.toList.take 15)).buf ++ [0x00] ∧ frameA[1] = 0x02 := ⟨⟨by decide, by decide⟩, by decide, by decide⟩

theorem witness_AcceptAndResyncResolveAFullWindow :
    ((holding frameA.toList).buf = frameA.toList ∧ frameA[0] = 0x01 ∧ frameA[1] = 0x02) ∧
      ((holding frameV23.toList).buf = frameV23.toList ∧ frameV23[0] = 0x01 ∧ frameV23[1] ≠ 0x02) := by decide

theorem witness_WaitAndPurgeEmitNothing :
    (holding (frameA.toList.take 15)).buf = 0x01 :: (frameA.toList.take 15).tail ∧ (frameA.toList.take 15).tail.length ≤ 14 ∧ (holding [0x01]).buf = 0x01 :: [] ∧
      (holding []).buf = [] := by decide

theorem witness_AnOutcomeRowOffItsConditionIsNotTaken :
    (holding [0x01]).buf ≠ [] ∧ ¬ (1 ≤ (holding []).buf.length) ∧ ¬ ((holding [0x01]).buf.length = 16) := by decide

theorem witness_AppendAddsTheByteAtTheBack : (holding (frameA.toList.take 15)).buf.length ≤ 15 ∧ (holding []).buf.length ≤ 15 := by decide

theorem witness_WindowCopiesTheSixteenBytes : (holding frameA.toList).buf = frameA.toList := by decide

theorem witness_DropfrontRemovesTheOldestBytes :
    (holding [0x01, 0x55]).buf = [0x01] ++ [0x55] ∧ (holding [0x01, 0x55]).buf = [] ++ [0x01, 0x55] ∧
      (holding [0x01, 0x55]).buf = [0x01, 0x55] ++ [] := by decide

theorem witness_PrimitivesOutsideTheirPreconditionsAreRefused :
    16 ≤ (holding frameA.toList).buf.length ∧ (holding (frameA.toList.take 15)).buf.length ≠ 16 ∧
      (holding []).buf.length < 1 := by decide

theorem witness_IngestIsItsPushesInOrder : restBuffer (holding (frameA.toList.take 15)).buf := ⟨by decide, by decide⟩

theorem witness_IngestIsItsPushesInOrder_answers :
    resultOf (.push 0x00) (holding (frameA.toList.take 15)) = some (.outcome .accept) ∧ resultOf (.push 0x00) (holding []) = some (.outcome .purge) := by decide

theorem witness_ChunkingDoesNotAffectTheFrames : restBuffer (holding [0x01]).buf := ⟨by decide, by decide⟩

theorem witness_IngestComputesTheStreamFunction : State.reset.buf = [] := by decide

theorem witness_IngestedFramesGrowWithTheStream_frames :
    State.reset.buf = [] ∧ resultOf (.ingest frameA.toList) State.reset = some (.frames [frameA]) := by decide

theorem witness_IngestedFramesGrowWithTheStream_last_byte :
    State.reset.buf = [] ∧ bufAfter (.ingest (frameA.toList.take 15)) State.reset = some (frameA.toList.take 15) ∧
      frameA.toList = (frameA.toList.take 15) ++ [0x00] ∧ frameA[0] = 0x01 ∧ frameA[1] = 0x02 := by decide

theorem witness_IngestedFramesGrowWithTheStream_whole :
    bufAfter (.ingest []) State.reset = some [] ∧ frameA.toList = [] ++ frameA.toList ∧ frameA[0] = 0x01 ∧ frameA[1] = 0x02 := by decide

theorem witness_OutputOrderIsInputOrder : restBuffer (holding [0x01]).buf := ⟨by decide, by decide⟩

theorem witness_AStartIsHeldUntilItsWindowIsFull :
    State.reset.buf = [] ∧ (frameV23.toList.take 14).length ≤ 14 ∧ ([] : List Byte).length ≤ 14 := by decide

theorem witness_AStartPairCapturesSixteenBytes : State.reset.buf = [] ∧ frameA[0] = 0x01 ∧ frameA[1] = 0x02 := by decide

theorem witness_NoiseDoesNotHideTheNextFrame :
    State.reset.buf = [] ∧
      hasStartPair (([0x55, 0x01, 0x33, 0x01, 0x01, 0x7F, 0x00, 0xFF, 0x04, 0x03, 0x02, 0x01] : List Byte).drop (12 - 15)) = false ∧
      frameA[0] = 0x01 ∧ frameA[1] = 0x02 := by decide

theorem witness_ReferenceLoopTurns_short :
    List.replicate 15 (0x55 : Byte) = State.reset.refBuf ++ List.replicate 15 0x55 ∧ (List.replicate 15 (0x55 : Byte)).length < 16 := by decide

theorem witness_ReferenceLoopTurns_discard :
    List.replicate 16 (0x55 : Byte) = State.reset.refBuf ++ List.replicate 16 0x55 ∧ 16 ≤ (List.replicate 16 (0x55 : Byte)).length ∧
       (0x01 : Byte) ∉ List.replicate 16 0x55 := by decide

theorem witness_ReferenceLoopTurns_wait :
    (0x55 :: frameA.toList.take 15) = State.reset.refBuf ++ (0x55 :: frameA.toList.take 15) ∧
      (0x55 :: frameA.toList.take 15) = [0x55] ++ frameA.toList.take 15 ∧ (0x01 : Byte) ∉ [0x55] ∧
      (frameA.toList.take 15).head? = some 0x01 ∧ (frameA.toList.take 15).length < 16 := by decide

theorem witness_ReferenceLoopTurns_yield :
    [0xAA, 0xBB] ++ frameA.toList ++ [0xCC] = State.reset.refBuf ++ ([0xAA, 0xBB] ++ frameA.toList ++ [0xCC]) ∧
      (0x01 : Byte) ∉ [0xAA, 0xBB] ∧ frameA[0] = 0x01 ∧ frameA[1] = 0x02 := by decide

theorem witness_ReferenceLoopTurns_drop :
    [0xAA] ++ frameV23.toList ++ [] = State.reset.refBuf ++ ([0xAA] ++ frameV23.toList ++ []) ∧ (0x01 : Byte) ∉ [0xAA] ∧
      frameV23[0] = 0x01 ∧ frameV23[1] ≠ 0x02 := by decide

theorem witness_TheReferenceLoopAgreesWithIngest : State.reset.buf = [] ∧ State.reset.refBuf = [] := by decide

theorem witness_EveryStepKeepsTheInvariant :
    (fed [.beat 0x101]).Inv ∧ ∃ t, step (fed [.beat 0x101]) = .next t := ⟨⟨⟨by decide, by decide⟩, by simp [fed, State.reset], by simp [fed, State.reset, genuineWord]⟩, _, rfl⟩

theorem witness_MalformedLengthIsNeverOutput :
    (State.mk (frameA.toList.take 15) [] [] .nothing [] [.beat 0x100] 0).Inv ∧
      ∃ t, step (State.mk (frameA.toList.take 15) [] [] .nothing [] [.beat 0x100] 0) = .next t ∧ eventsOf t.outs ≠ [] := ⟨⟨⟨by decide, by decide⟩, by simp, by simp⟩, _, rfl, by decide⟩

theorem witness_TheTraceSinceAResetIsTheStreamFunction :
    (fed [.beat 0x301, .beat 0x101, .beat 0x000]).input = (beatWord true true 0x01 :: [0x101, 0x000]).map .beat ∧
      ∀ w ∈ [(0x101 : BitVec 10), 0x000], w.getLsbD 9 = false := by decide

theorem witness_DecodeAnswersTheFirstFailingCheck : (frameA.toList.take 15).length ≠ 16 ∧ ([] : List Byte).length ≠ 16 := by decide

theorem witness_ValidFramesRoundTrip :
    validFrame frameA ∧ ∃ r : Reading,
      exec (.decode frameA.toList) State.reset = .next { State.reset with outs := [], result := .decoded (.reading r) } := ⟨by unfold validFrame; decide, _, rfl⟩

theorem witness_OneChangedByteIsClassified :
    validFrame frameA ∧ ([(0, 0x81), (1, 0x03), (2, 0x55), (3, 0x2B), (3, 0x2D), (4, 0x31), (9, 0x31), (10, 0x80), (10, 0x7F), (11, 0x80),
      (11, 0x7F), (12, 0x7F), (13, 0x0D), (14, 0x00), (15, 0x10)] : List (Fin 16 × Byte)).all (fun c => c.2 ≠ frameA[c.1]) := ⟨by unfold validFrame; decide, by decide⟩

theorem witness_BccSeesExactlyTheXorOfTheDifferences :
    (frameA.toList.take 12).Perm (frameA.toList.take 12) ∧ (0x21 : Byte) ≠ frameA[3] ∧ frameA.set 3 0x21 = frameA.set 3 0x21 ∧
      frameA[0] = 0x01 ∧ frameA[1] = 0x02 := ⟨List.Perm.refl _, by decide, rfl, by decide, by decide⟩

theorem witness_TheSignHasTwoValues :
    frameV6[3] = 0x2D ∧ frameA[3] = 0x20 ∧ (frameA.set 3 0x2B)[3] ≠ 0x2D ∧ (frameA.set 3 0x2B)[3] ≠ 0x20 := by decide

theorem witness_StatusRowsMapByteTwo :
    frameV5[2] = 0x46 ∧ frameA[2] = 0x53 ∧ frameV6[2] = 0x55 ∧ frameV7[2] ≠ 0x46 ∧ frameV7[2] ≠ 0x53 ∧ frameV7[2] ≠ 0x55 := by decide

theorem witness_Status2RowsMapByteFifteen :
    frameA[15] = 0x00 ∧ frameV6[15] = 0x10 ∧ frameV7[15] = 0x20 ∧ frameV5[15] = 0x40 ∧ (frameA.set 15 0x30)[15] ≠ 0x00 ∧
      (frameA.set 15 0x30)[15] ≠ 0x10 ∧ (frameA.set 15 0x30)[15] ≠ 0x20 ∧ (frameA.set 15 0x30)[15] ≠ 0x40 := by decide

theorem witness_WeightAndUnitsAreTakenAsTheyStand :
    (frameA.set 10 0x7F)[10].toNat ≤ 0x7F ∧ (frameA.set 10 0x7F)[11].toNat ≤ 0x7F ∧ 0x7F < (frameA.set 10 0x80)[10].toNat ∧
      0x7F < (frameA.set 11 0x80)[11].toNat := by decide

theorem witness_FieldRowsWithoutTheirByteAnswerNoMatch :
    Instr.signMinus frameA = .signMinus frameA ∧ (Instr.signMinus frameA).wf = false ∧ (Instr.units frameU).wf = false := by decide

theorem witness_PortsShowTheEventOfAPush :
    restBuffer (holding (frameA.toList.take 15)).buf ∧ (holding (frameA.toList.take 15)).pipe = [] ∧ frameA.toList = (holding (frameA.toList.take 15)).buf ++ [0x00] ∧
      frameA[1] = 0x02 ∧ ∃ r, decodeBytes frameA.toList = .reading r := ⟨⟨by decide, by decide⟩, by decide, by decide, by decide, _, rfl⟩

theorem witness_PortsShowTheEventOfAPush_error :
    restBuffer (holding (frameU.toList.take 15)).buf ∧ (holding (frameU.toList.take 15)).pipe = [] ∧
      frameU.toList = (holding (frameU.toList.take 15)).buf ++ [0x00] ∧ frameU[1] = 0x02 ∧
      ∃ e, decodeBytes frameU.toList = .error e := ⟨⟨by decide, by decide⟩, by decide, by decide, by decide, _, rfl⟩

end Sys2Proof.Tests
end

section
/-! ## Which instructions a word stands for, and what a step can do (30_encoding.md R71, 44_core_top.md R170) -/

namespace Sys2Proof

/-- The rows that are tables, patterns or pure functions of their operands: no operation of CORE or of the reference loop. -/
def Instr.isTableRow : Instr → Bool
  | .reset | .push _ | .idle | .corestep _ _ _ | .ingest _ | .ingestref _ => false
  | .pushAccept | .pushResync | .pushWait | .pushPurge => false
  | .append _ | .window | .dropfront _ | .evict | .clear => false
  | _ => true

theorem decodeBeat_cases (w : BitVec 10) :
    decodeBeat w = .reset ∨ (∃ b, decodeBeat w = .push b) ∨ decodeBeat w = .idle := by
  unfold decodeBeat
  split
  · exact .inl rfl
  · split
    · exact .inr (.inl ⟨_, rfl⟩)
    · exact .inr (.inr rfl)

theorem decodeWindow_isTableRow {f : Frame} {i : Instr} (h : decodeWindow f = .ok i) : i.isTableRow = true := by
  unfold decodeWindow at h
  split_ifs at h <;> cases h <;> rfl

theorem decodeSign_isTableRow {f : Frame} {i : Instr} (h : decodeSign f = .ok i) : i.isTableRow = true := by
  unfold decodeSign at h
  split_ifs at h <;> cases h <;> rfl

theorem decodeStatus_isTableRow (f : Frame) : (decodeStatus f).isTableRow = true := by
  unfold decodeStatus
  split_ifs <;> rfl

theorem decodeStatus2_isTableRow (f : Frame) : (decodeStatus2 f).isTableRow = true := by
  unfold decodeStatus2
  split_ifs <;> rfl

theorem decodeUnits_isTableRow {f : Frame} {i : Instr} (h : decodeUnits f = .ok i) : i.isTableRow = true := by
  unfold decodeUnits at h
  split_ifs at h; cases h; rfl

theorem decodeFrameWord_isTableRow {format : FrameFormat} {f : Frame} {i : Instr}
    (h : decodeFrameWord format f = .ok i) : i.isTableRow = true := by
  cases format with
  | window => exact decodeWindow_isTableRow h
  | fieldSign => exact decodeSign_isTableRow h
  | fieldStatus => cases h; exact decodeStatus_isTableRow f
  | fieldStatus2 => cases h; exact decodeStatus2_isTableRow f
  | fieldUnits => exact decodeUnits_isTableRow h
  | _ => cases h; rfl

theorem decodeByte_isTableRow {b : Byte} {i : Instr} (h : decodeByte b = .ok i) : i.isTableRow = true := by
  unfold decodeByte at h
  split_ifs at h <;> cases h <;> rfl

theorem decodeErrCode_isTableRow {c : BitVec 3} {i : Instr} (h : decodeErrCode c = .ok i) : i.isTableRow = true := by
  unfold decodeErrCode at h
  split_ifs at h <;> cases h <;> rfl

/-- A word stands for one of CORE's three beats or for a table row: the rows without an encoding are never decoded (log 12). -/
theorem decode_cases {c : Code} {i : Instr} (h : decode c = .ok i) :
    i = .reset ∨ (∃ b, i = .push b) ∨ i = .idle ∨ i.isTableRow = true := by
  cases c with
  | beat w =>
    cases h
    rcases decodeBeat_cases w with hw | ⟨b, hw⟩ | hw
    · exact .inl hw
    · exact .inr (.inl ⟨b, hw⟩)
    · exact .inr (.inr (.inl hw))
  | frame format v => exact .inr (.inr (.inr (decodeFrameWord_isTableRow h)))
  | byte b => exact .inr (.inr (.inr (decodeByte_isTableRow h)))
  | errCode e => exact .inr (.inr (.inr (decodeErrCode_isTableRow h)))

end Sys2Proof

namespace Sys2Proof.Machine

/-- A table row answers a value of its operands and does nothing else (log 11). -/
theorem exec_of_isTableRow {i : Instr} (h : i.isTableRow = true) : ∃ r, ∀ s, exec i s = .next (answer r s) := by
  cases i with
  | reset | push | idle | corestep | ingest | ingestref | pushAccept | pushResync | pushWait | pushPurge
  | append | window | dropfront | evict | clear => exact absurd h Bool.false_ne_true
  | _ => exact ⟨_, fun _ => rfl⟩

/-- The state in which the next word presented has been taken; the same state where nothing is presented (log 1). -/
def State.consume (s : State) : State := { s with input := s.input.tail }

@[simp] theorem State.consume_buf (s : State) : s.consume.buf = s.buf := rfl
@[simp] theorem State.consume_pipe (s : State) : s.consume.pipe = s.pipe := rfl
@[simp] theorem State.consume_outs (s : State) : s.consume.outs = s.outs := rfl

/-- A step that answers next runs an instruction that the idle beat or the word taken stands for. -/
theorem step_eq_next {s t : State} (h : step s = .next t) :
    ∃ i, exec i s.consume = .next t ∧ (i = .idle ∨ ∃ c, decode c = .ok i) := by
  obtain ⟨buf, pipe, outs, result, refBuf, input, draws⟩ := s
  cases input with
  | nil => exact ⟨.idle, h, .inl rfl⟩
  | cons c rest =>
    simp only [step] at h
    cases hc : decode c with
    | ok i => rw [hc] at h; exact ⟨i, h, .inr ⟨c, hc⟩⟩
    | error why => rw [hc] at h; cases h

/-- All that a step can do: a RESET beat, a PUSH beat at rest, an IDLE beat, or an answer without a beat (R71, R170). -/
theorem step_cases {s t : State} (h : step s = .next t) :
    t = resetBeat s.consume ∨ (restBuffer s.buf ∧ ∃ b, t = pushState b s.consume) ∨ t = idleBeat s.consume ∨
      ∃ r, t = answer r s.consume := by
  obtain ⟨i, hi, hw⟩ := step_eq_next h
  have hrow : i = .reset ∨ (∃ b, i = .push b) ∨ i = .idle ∨ i.isTableRow = true := by
    rcases hw with rfl | ⟨c, hc⟩
    · exact .inr (.inr (.inl rfl))
    · exact decode_cases hc
  rcases hrow with rfl | ⟨b, rfl⟩ | rfl | hrow
  · cases hi; exact .inl rfl
  · have hp : pushBeat b s.consume = .next t := hi
    by_cases hr : restBuffer s.consume.buf
    · rw [pushBeat_rest b _ hr] at hp
      cases hp; exact .inr (.inl ⟨hr, b, rfl⟩)
    · rw [pushBeat_off_rest b _ hr] at hp
      cases hp
  · cases hi; exact .inr (.inr (.inl rfl))
  · obtain ⟨r, hr⟩ := exec_of_isTableRow hrow
    rw [hr] at hi
    cases hi; exact .inr (.inr (.inr ⟨r, rfl⟩))

end Sys2Proof.Machine
end

section
/-! ## The invariant of a run (10_state.md R22, 41_frame_synchronizer.md R122) -/

namespace Sys2Proof.Machine

open Config

theorem restBuffer_nil : restBuffer [] := ⟨Nat.zero_le _, .inl rfl⟩

/-- Sixteen held bytes that EVICT leaves start with SOH. -/
theorem frame_zero_of_startsAtSoh {w : Frame} (h : startsAtSoh w.toList = true) : w[0] = SOH := by
  rcases (startsAtSoh_iff _).1 h with h | h
  · simpa using congrArg List.length h
  · simpa [List.head?_eq_getElem?, SOH] using h

/-- A PUSH at rest causes no event, or a candidate frame with its own decode result (R122, R170). -/
theorem genuineWord_pushBytes {bytes : List Byte} (b : Byte) (h : restBuffer bytes) :
    genuineWord (outWordOf (pushBytes bytes b).emitted) := by
  unfold pushBytes
  rcases resolve_cases _ (held_of_rest bytes b h) with ⟨-, hc⟩ | ⟨w, hw, h1, hc⟩ | ⟨w, -, -, hc⟩
  · rw [hc]; trivial
  · rw [hc]
    exact ⟨frame_zero_of_startsAtSoh (hw ▸ startsAtSoh_evictBytes _), h1, rfl⟩
  · rw [hc]; trivial

/-- A genuine word put behind genuine words in the OUT_LATENCY pipeline. -/
theorem genuineWord_of_mem_append {pipe : List OutWord} {w : OutWord} (hp : ∀ x ∈ pipe, genuineWord x)
    (hw : genuineWord w) : ∀ x ∈ pipe ++ [w], genuineWord x := by
  intro x hx
  rcases List.mem_append.1 hx with hx | hx
  · exact hp x hx
  · rwa [List.mem_singleton.1 hx]

variable {s : State}

theorem inv_consume (h : s.Inv) : s.consume.Inv := ⟨h.rest, h.pipe, h.outs⟩

theorem inv_answer (r : Result) (h : s.Inv) : (answer r s).Inv := ⟨h.rest, h.pipe, by simp⟩

/-- An output beat shifts the pipeline by its own word, so it shows and keeps genuine words only (R173). -/
theorem inv_present {w : OutWord} (h : s.Inv) (hw : genuineWord w) : (present w s).Inv where
  rest := h.rest
  pipe x hx := genuineWord_of_mem_append h.pipe hw x (List.mem_of_mem_drop hx)
  outs x hx := genuineWord_of_mem_append h.pipe hw x (List.mem_of_mem_take hx)

/-- A RESET beat needs no invariant before it: it empties the buffer and cancels every event (R210, R211). -/
theorem inv_resetBeat (s : State) : (resetBeat s).Inv where
  rest := restBuffer_nil
  pipe x hx := by rw [List.eq_of_mem_replicate hx]; trivial
  outs x hx := by rw [List.mem_singleton.1 hx]; trivial

theorem inv_idleBeat (h : s.Inv) : (idleBeat s).Inv :=
  have hp : (present .noEvent s).Inv := inv_present h trivial
  ⟨hp.rest, hp.pipe, hp.outs⟩

theorem inv_pushState (b : Byte) (h : s.Inv) : (pushState b s).Inv :=
  have hp := inv_present h (genuineWord_pushBytes b h.rest)
  ⟨pushBytes_rest s.buf b h.rest, hp.pipe, hp.outs⟩

/-- Every step keeps the invariant. -/
theorem step_inv {t : State} (h : s.Inv) (hs : step s = .next t) : t.Inv := by
  have hc := inv_consume h
  rcases step_cases hs with rfl | ⟨-, b, rfl⟩ | rfl | ⟨r, rfl⟩
  · exact inv_resetBeat _
  · exact inv_pushState b hc
  · exact inv_idleBeat hc
  · exact inv_answer r hc

/-- No step changes OUT_LATENCY, from any state (R173, R211). -/
theorem step_pipe_length {t : State} (hs : step s = .next t) : t.pipe.length = s.pipe.length := by
  rcases step_cases hs with rfl | ⟨-, b, rfl⟩ | rfl | ⟨r, rfl⟩ <;> simp

/-- Settles O38, by the four things a step can do (`step_cases`), each of which keeps the invariant. -/
theorem everyStepKeepsTheInvariant : Obligations.EveryStepKeepsTheInvariant :=
  fun _ _ hinv hs => ⟨step_inv hinv hs, step_pipe_length hs⟩

/-- Settles O39: the state after reset holds no byte and shows no event. -/
theorem resetStateMeetsTheInvariant : Obligations.ResetStateMeetsTheInvariant where
  left := { rest := restBuffer_nil
            pipe := fun _ hw => absurd hw List.not_mem_nil
            outs := fun w hw => by rw [List.mem_singleton.1 hw]; trivial }
  right := rfl

end Sys2Proof.Machine
end

section
/-! ## What no instruction reads (10_state.md R28, R30): the output words, the last answer, the counter of free values -/

namespace Sys2Proof.Machine

/-- Two states agree in all that an instruction may read: in all but `outs`, `result` and `draws`. -/
structure SameRead (s t : State) : Prop where
  buf    : s.buf = t.buf
  pipe   : s.pipe = t.pipe
  refBuf : s.refBuf = t.refBuf
  input  : s.input = t.input

/-- Two states agree in all but the counter of free values. -/
structure SameShown (s t : State) : Prop extends SameRead s t where
  outs   : s.outs = t.outs
  result : s.result = t.result

/-- Two outcomes are the same up to the counter of free values. -/
inductive RunAlike : Host.Outcome State Fault Refusal → Host.Outcome State Fault Refusal → Prop where
  | next {t u : State} (h : SameShown t u) : RunAlike (.next t) (.next u)
  | refused (a : Refusal) : RunAlike (.refused a) (.refused a)

section
variable {s t : State} (h : SameRead s t)
include h

theorem SameRead.setBuf (bytes : List Byte) : SameRead { s with buf := bytes } { t with buf := bytes } :=
  ⟨rfl, h.pipe, h.refBuf, h.input⟩

theorem SameRead.setRefBuf (bytes : List Byte) : SameRead { s with refBuf := bytes } { t with refBuf := bytes } :=
  ⟨h.buf, h.pipe, rfl, h.input⟩

theorem sameShown_answer (r : Result) : SameShown (answer r s) (answer r t) :=
  ⟨⟨h.buf, h.pipe, h.refBuf, h.input⟩, rfl, rfl⟩

theorem sameShown_resetBeat : SameShown (resetBeat s) (resetBeat t) :=
  ⟨⟨rfl, by simp [h.pipe], h.refBuf, h.input⟩, rfl, rfl⟩

/-- A beat that presents `w`, leaves `bytes` in the buffer and answers `r`. -/
theorem sameShown_beat (w : OutWord) (bytes : List Byte) (r : Result) :
    SameShown { present w s with buf := bytes, result := r } { present w t with buf := bytes, result := r } :=
  ⟨⟨rfl, by simp [h.pipe], h.refBuf, h.input⟩, by simp [h.pipe], rfl⟩

theorem sameShown_idleBeat : SameShown (idleBeat s) (idleBeat t) := by
  have hb := sameShown_beat h .noEvent t.buf .nothing
  exact ⟨⟨h.buf, hb.pipe, hb.refBuf, hb.input⟩, hb.outs, hb.result⟩

theorem sameShown_pushState (b : Byte) : SameShown (pushState b s) (pushState b t) := by
  unfold pushState
  rw [h.buf]
  exact sameShown_beat h _ _ _

theorem sameShown_takeOutcome (o : PushOutcome) : SameShown (takeOutcome o s) (takeOutcome o t) := by
  unfold takeOutcome
  rw [h.buf]
  split
  · exact sameShown_beat h _ _ _
  · exact sameShown_answer h _

theorem runAlike_pushBeat (b : Byte) : RunAlike (pushBeat b s) (pushBeat b t) := by
  unfold pushBeat
  rw [h.buf]
  split
  · exact .next (sameShown_pushState h b)
  · exact .refused _

theorem runAlike_append (b : Byte) : RunAlike (execAppend b s) (execAppend b t) := by
  unfold execAppend
  rw [h.buf]
  split
  · exact .next (sameShown_answer (h.setBuf _) _)
  · exact .refused _

theorem runAlike_window : RunAlike (execWindow s) (execWindow t) := by
  unfold execWindow
  rw [h.buf]
  split
  · exact .next (sameShown_answer h _)
  · exact .refused _

theorem runAlike_dropfront (n : Nat) : RunAlike (execDropfront n s) (execDropfront n t) := by
  unfold execDropfront
  rw [h.buf]
  split
  · exact .next (sameShown_answer (h.setBuf _) _)
  · exact .refused _

theorem runAlike_evict : RunAlike (execEvict s) (execEvict t) := by
  unfold execEvict
  rw [h.buf]
  exact .next (sameShown_answer (h.setBuf _) _)

theorem runAlike_ingestref (chunk : List Byte) : RunAlike (execIngestref chunk s) (execIngestref chunk t) := by
  unfold execIngestref
  rw [h.refBuf]
  exact .next (sameShown_answer (h.setRefBuf _) _)

theorem runAlike_corestep (rst inValid : Bool) (b : Byte) :
    RunAlike (execCorestep rst inValid b s) (execCorestep rst inValid b t) := by
  unfold execCorestep
  split
  · exact .next (sameShown_resetBeat h)
  · split
    · exact runAlike_pushBeat h b
    · exact .next (sameShown_idleBeat h)

end

/-- INGEST: after each PUSH the two states still agree in all that the rest of the chunk reads. -/
theorem runAlike_ingestBeats (chunk : List Byte) {s t : State} (h : SameRead s t) :
    RunAlike (ingestBeats chunk s) (ingestBeats chunk t) := by
  induction chunk generalizing s t with
  | nil => exact .next (sameShown_answer h _)
  | cons b bs ih =>
    by_cases hr : restBuffer s.buf
    · have hp := sameShown_pushState h b
      have hrest := ih hp.toSameRead
      simp only [ingestBeats, pushBeat_rest b s hr, pushBeat_rest b t (h.buf ▸ hr), h.buf, hp.outs]
      generalize ingestBeats bs (pushState b s) = a at hrest ⊢
      generalize ingestBeats bs (pushState b t) = c at hrest ⊢
      cases hrest with
      | next hu =>
        exact .next ⟨⟨hu.buf, hu.pipe, hu.refBuf, hu.input⟩, by simp only [hu.outs], by simp only [hu.result]⟩
      | refused a => exact .refused a
    · simp only [ingestBeats, pushBeat_off_rest b s hr, pushBeat_off_rest b t (h.buf ▸ hr)]
      exact .refused _

/-- Every instruction runs alike from two states that agree in all that it may read. -/
theorem runAlike_exec (i : Instr) {s t : State} (h : SameRead s t) : RunAlike (exec i s) (exec i t) := by
  by_cases hrow : i.isTableRow = true
  · obtain ⟨r, hr⟩ := exec_of_isTableRow hrow
    rw [hr, hr]
    exact .next (sameShown_answer h r)
  · cases i with
    | reset => exact .next (sameShown_resetBeat h)
    | push b => exact runAlike_pushBeat h b
    | idle => exact .next (sameShown_idleBeat h)
    | corestep rst inValid b => exact runAlike_corestep h rst inValid b
    | ingest chunk => exact runAlike_ingestBeats chunk h
    | ingestref chunk => exact runAlike_ingestref h chunk
    | pushAccept => exact .next (sameShown_takeOutcome h .accept)
    | pushResync => exact .next (sameShown_takeOutcome h .resync)
    | pushWait => exact .next (sameShown_takeOutcome h .wait)
    | pushPurge => exact .next (sameShown_takeOutcome h .purge)
    | append b => exact runAlike_append h b
    | window => exact runAlike_window h
    | dropfront n => exact runAlike_dropfront h n
    | evict => exact runAlike_evict h
    | clear => exact .next (sameShown_answer (h.setBuf []) .nothing)
    | _ => exact absurd rfl hrow

/-- Settles O42, by the case split of `runAlike_exec` over the instructions, with an induction over INGEST's chunk. -/
theorem outputsAreNeverReadBack : Obligations.OutputsAreNeverReadBack := by
  intro i s outs r n
  have hread : SameRead s { s with outs := outs, result := r, draws := n } := ⟨rfl, rfl, rfl, rfl⟩
  have hrun := runAlike_exec i hread
  generalize exec i s = a at hrun ⊢
  generalize exec i { s with outs := outs, result := r, draws := n } = b at hrun ⊢
  cases hrun with
  | next h => exact ⟨h.buf, h.pipe, h.outs, h.result, h.refBuf, h.input⟩
  | refused _ => rfl

end Sys2Proof.Machine
end

section
/-! ## The decoder and the encoder undo each other (30_encoding.md R43, R60 to R72) -/

namespace Sys2Proof

open Config

/-- The bits of a beat word: the data below, `in_valid` and `rst` above (R71). -/
theorem getLsbD_beatWord (rst inValid : Bool) (b : Byte) (j : Nat) :
    (beatWord rst inValid b).getLsbD j =
      if j < 8 then b.getLsbD j else (BitVec.ofBool rst ++ BitVec.ofBool inValid).getLsbD (j - 8) :=
  BitVec.getLsbD_append

/-- A beat word selects RESET, PUSH of its data or IDLE, the reset first (R71, R212). -/
theorem decodeBeat_beatWord (rst inValid : Bool) (b : Byte) :
    decodeBeat (beatWord rst inValid b) = if rst then .reset else if inValid then .push b else .idle := by
  have hrst : (beatWord rst inValid b).getLsbD 9 = rst := by
    rw [getLsbD_beatWord]; cases rst <;> cases inValid <;> rfl
  have hvalid : (beatWord rst inValid b).getLsbD 8 = inValid := by
    rw [getLsbD_beatWord]; cases rst <;> cases inValid <;> rfl
  have hdata : (beatWord rst inValid b).extractLsb' 0 8 = b := by
    apply BitVec.eq_of_getLsbD_eq
    intro j hj
    simp only [BitVec.getLsbD_extractLsb', Nat.zero_add, getLsbD_beatWord, hj, decide_true, Bool.true_and, if_true]
  rw [decodeBeat, hrst, hvalid, hdata]

/-- The decoder reads a packed frame by its format alone: packing loses no byte (R43). -/
theorem decode_packFrame (format : FrameFormat) (f : Frame) :
    decode (.frame format (packFrame f)) = decodeFrameWord format f := by
  rw [decode, unpackFrame_packFrame]

/-! ### The free fields of a frame (R60) -/

theorem ofFrame_layout (x : FrameFields) : .ofFrame x.layout = x := by
  have hdigits : (FrameFields.ofFrame x.layout).digits = x.digits := Vector.ext fun k hk => by
    interval_cases k <;> rfl
  have hunits : (FrameFields.ofFrame x.layout).units = x.units := Vector.ext fun k hk => by
    interval_cases k <;> rfl
  calc FrameFields.ofFrame x.layout
      = { x with digits := (FrameFields.ofFrame x.layout).digits
                 units := (FrameFields.ofFrame x.layout).units } := rfl
    _ = x := by rw [hdigits, hunits]

/-- A frame with the four markers is laid out from its own free fields: the fields and the markers are all of it. -/
theorem layout_ofFrame {f : Frame} (h0 : f[0] = SOH) (h1 : f[1] = STX) (h13 : f[13] = ETX) (h14 : f[14] = EOT) :
    (FrameFields.ofFrame f).layout = f := by
  apply Vector.ext
  intro k hk
  interval_cases k <;> simp [FrameFields.layout, FrameFields.ofFrame, h0, h1, h13, h14]

/-! ### Every decoded word is well formed and is its instruction's own word -/

section
variable {f : Frame} {i : Instr}

theorem decodeWindow_exact (h : decodeWindow f = .ok i) :
    i.wf = true ∧ encode i = some (.frame .window (packFrame f)) := by
  unfold decodeWindow at h
  split_ifs at h with h0 h1 hend
  · cases h; simp_all [Instr.wf, encode]
  · cases h
    exact ⟨rfl, by rw [encode, layout_ofFrame (not_not.1 h0) (not_not.1 h1) hend.1 hend.2]⟩
  · cases h; simp_all [Instr.wf, encode, imp_iff_not_or]

theorem decodeSign_exact (h : decodeSign f = .ok i) :
    i.wf = true ∧ encode i = some (.frame .fieldSign (packFrame f)) := by
  unfold decodeSign at h
  split_ifs at h <;> cases h <;> simp_all [Instr.wf, encode]

theorem decodeStatus_exact (f : Frame) :
    (decodeStatus f).wf = true ∧ encode (decodeStatus f) = some (.frame .fieldStatus (packFrame f)) := by
  unfold decodeStatus
  split_ifs <;> simp_all [Instr.wf, encode]

theorem decodeStatus2_exact (f : Frame) :
    (decodeStatus2 f).wf = true ∧ encode (decodeStatus2 f) = some (.frame .fieldStatus2 (packFrame f)) := by
  unfold decodeStatus2
  split_ifs <;> simp_all [Instr.wf, encode]

theorem decodeUnits_exact (h : decodeUnits f = .ok i) :
    i.wf = true ∧ encode i = some (.frame .fieldUnits (packFrame f)) := by
  unfold decodeUnits at h
  split_ifs at h
  cases h
  simp_all [Instr.wf, encode]

theorem decodeFrameWord_exact {format : FrameFormat} (h : decodeFrameWord format f = .ok i) :
    i.wf = true ∧ encode i = some (.frame format (packFrame f)) := by
  cases format with
  | window => exact decodeWindow_exact h
  | functionDecode => cases h; exact ⟨rfl, by rw [encode, ofBytes_toList]; rfl⟩
  | fieldSign => exact decodeSign_exact h
  | fieldStatus => cases h; exact decodeStatus_exact f
  | fieldStatus2 => cases h; exact decodeStatus2_exact f
  | fieldUnits => exact decodeUnits_exact h
  | _ => cases h; exact ⟨rfl, rfl⟩

end

theorem decodeByte_exact {b : Byte} {i : Instr} (h : decodeByte b = .ok i) :
    i.wf = true ∧ encode i = some (.byte b) := by
  unfold decodeByte at h
  split_ifs at h <;> cases h <;> subst b <;> exact ⟨rfl, rfl⟩

theorem decodeErrCode_exact {c : BitVec 3} {i : Instr} (h : decodeErrCode c = .ok i) :
    i.wf = true ∧ encode i = some (.errCode c) := by
  unfold decodeErrCode at h
  split_ifs at h <;> cases h <;> subst c <;> exact ⟨rfl, rfl⟩

theorem decodeBeat_wf (w : BitVec 10) : (decodeBeat w).wf = true := by
  rcases decodeBeat_cases w with h | ⟨b, h⟩ | h <;> rw [h] <;> rfl

/-- Settles O2, format by format: each decoder takes exactly the well-formed instructions of its own words. -/
theorem decodedWordsAreWellFormedAndExact : Obligations.DecodedWordsAreWellFormedAndExact := by
  intro c i h
  cases c with
  | beat w => cases h; exact ⟨decodeBeat_wf w, fun hbeat => absurd rfl (hbeat w)⟩
  | frame format v =>
    obtain ⟨hwf, henc⟩ := decodeFrameWord_exact h
    exact ⟨hwf, fun _ => by rw [henc, packFrame_unpackFrame]⟩
  | byte b => exact ⟨(decodeByte_exact h).1, fun _ => (decodeByte_exact h).2⟩
  | errCode e => exact ⟨(decodeErrCode_exact h).1, fun _ => (decodeErrCode_exact h).2⟩

/-! ### Every well-formed instruction is read back from its own word -/

/-- Settles O1, row by row: the word's format says which decoder reads it, and the row's well-formedness which branch
that decoder takes. -/
theorem decodeOfEncodeIsTheInstruction : Obligations.DecodeOfEncodeIsTheInstruction := by
  intro i c hwf henc
  cases i with
  | reset | push | idle => cases henc; rw [decode, decodeBeat_beatWord]; rfl
  | candidate f | falsestart f =>
    cases henc
    rw [decode_packFrame]
    simp_all [Instr.wf, decodeFrameWord, decodeWindow, imp_iff_not_or]
  | frame x =>
    cases henc
    rw [decode_packFrame]
    calc decodeWindow x.layout = .ok (.frame (.ofFrame x.layout)) := rfl
      _ = .ok (.frame x) := by rw [ofFrame_layout]
  | decode bytes =>
    obtain ⟨f, hf, rfl⟩ := Option.map_eq_some_iff.1 henc
    rw [decode_packFrame, ← (ofBytes_eq_some_iff bytes f).1 hf]
    rfl
  | bcc | checkMarkers | checkSign | checkUnits | checkBcc | weight => cases henc; exact decode_packFrame _ _
  | signMinus f | signSpace f =>
    cases henc
    rw [decode_packFrame]
    simp_all [Instr.wf, decodeFrameWord, decodeSign, SIGN_MINUS, SIGN_SPACE]
  | statusOverload f | statusStable f | statusUnstable f | statusUnknown f =>
    cases henc
    rw [decode_packFrame]
    simp_all [Instr.wf, decodeFrameWord, decodeStatus, STATUS_F, STATUS_S, STATUS_U]
  | status2None f | status2Zero f | status2Tare f | status2Overload f | status2Unknown f =>
    cases henc
    rw [decode_packFrame]
    simp_all [Instr.wf, decodeFrameWord, decodeStatus2]
  | units f =>
    cases henc
    rw [decode_packFrame]
    simp_all [Instr.wf, decodeFrameWord, decodeUnits]
  | constSoh | constStx | constEtx | constEot => cases henc; rfl
  | errNone | errMalformedLength | errInvalidMarkers | errInvalidSign | errInvalidUnits | errChecksumMismatch =>
    cases henc; rfl
  | corestep | ingest | ingestref | pushAccept | pushResync | pushWait | pushPurge
  | append | window | dropfront | evict | clear | checkLength => cases henc

/-- Settles O4: the seven words as the decoder evaluates them. -/
theorem writtenWordsDecodeToTheirInstructions : Obligations.WrittenWordsDecodeToTheirInstructions := by
  refine ⟨?reset, ?resetWithData, ?push, ?idle, ?frameA, ?eot, ?checksumCode⟩
  all_goals decide

end Sys2Proof
end

section
/-! ## INGEST as one function of the bytes held and the chunk (41_frame_synchronizer.md R108; 40_byte_accumulator.md R97) -/

namespace Sys2Proof.Machine

/-- What the buffer holds after the bytes of a chunk are pushed onto `bytes` in order. -/
def ingestBuffer : List Byte → List Byte → List Byte
  | bytes, [] => bytes
  | bytes, b :: bs => ingestBuffer (pushBytes bytes b).buf bs

/-- What each of those pushes emits. -/
def ingestEmissions : List Byte → List Byte → List (Option Frame)
  | _, [] => []
  | bytes, b :: bs => (pushBytes bytes b).emitted :: ingestEmissions (pushBytes bytes b).buf bs

/-- The frames among them, in order. -/
def ingestFrames (bytes chunk : List Byte) : List Frame := (ingestEmissions bytes chunk).flatMap Option.toList

theorem ingestFrames_cons (bytes : List Byte) (b : Byte) (bs : List Byte) :
    ingestFrames bytes (b :: bs) = (pushBytes bytes b).emitted.toList ++ ingestFrames (pushBytes bytes b).buf bs :=
  List.flatMap_cons

/-- What INGEST at rest makes of a state: the output words of its beats go through the OUT_LATENCY pipeline in order
(R173), and nothing but the buffer decides which they are. -/
def ingestState (chunk : List Byte) (s : State) : State :=
  let shifted := s.pipe ++ (ingestEmissions s.buf chunk).map outWordOf
  { s with
    buf    := ingestBuffer s.buf chunk
    pipe   := shifted.drop chunk.length
    outs   := shifted.take chunk.length
    result := .frames (ingestFrames s.buf chunk)
    draws  := s.draws + chunk.length }

/-- The pipeline after one beat that `w` enters and `n` beats that `ws` enter (R173). -/
theorem drop_shifted (pipe ws : List OutWord) (w : OutWord) (n : Nat) :
    ((pipe ++ [w]).drop 1 ++ ws).drop n = (pipe ++ w :: ws).drop (n + 1) := by
  have hlen : 1 ≤ (pipe ++ [w]).length := by simp
  rw [List.append_cons pipe w ws, ← List.drop_append_of_le_length hlen, List.drop_drop, Nat.add_comm]

/-- What those beats present, the first of them first. -/
theorem take_shifted (pipe ws : List OutWord) (w : OutWord) (n : Nat) :
    (pipe ++ [w]).take 1 ++ ((pipe ++ [w]).drop 1 ++ ws).take n = (pipe ++ w :: ws).take (n + 1) := by
  have hlen : 1 ≤ (pipe ++ [w]).length := by simp
  rw [List.append_cons pipe w ws, Nat.add_comm, List.take_add, List.take_append_of_le_length hlen,
    List.drop_append_of_le_length hlen]

/-- INGEST of a byte and a chunk: the byte's PUSH and then the INGEST of the chunk, the output words of both shown. -/
theorem ingestState_cons (b : Byte) (bs : List Byte) (s : State) :
    ingestState (b :: bs) s =
      { ingestState bs (pushState b s) with
        outs   := (pushState b s).outs ++ (ingestState bs (pushState b s)).outs
        result := .frames ((pushBytes s.buf b).emitted.toList ++ ingestFrames (pushState b s).buf bs) } := by
  simp only [ingestState, ingestBuffer, ingestEmissions, ingestFrames_cons, List.map_cons, List.length_cons,
    drop_shifted, take_shifted, pushState_buf, pushState_pipe, pushState_outs, pushState_draws, pushState_refBuf,
    pushState_input, Nat.add_assoc, Nat.add_comm 1]

/-- INGEST at rest completes, in the state `ingestState` says. -/
theorem ingestBeats_rest (chunk : List Byte) {s : State} (h : restBuffer s.buf) :
    ingestBeats chunk s = .next (ingestState chunk s) := by
  induction chunk generalizing s with
  | nil => simp [ingestBeats, ingestState, ingestBuffer, ingestEmissions, ingestFrames, answer]
  | cons b bs ih =>
    have hbs := ih (s := pushState b s) (pushBytes_rest s.buf b h)
    exact (ingestBeats_cons_eq_next b bs s _).2 ⟨h, _, hbs, ingestState_cons b bs s⟩

/-- INGEST at rest, as the instruction's arm. -/
theorem exec_ingest_rest (chunk : List Byte) {s : State} (h : restBuffer s.buf) :
    exec (.ingest chunk) s = .next (ingestState chunk s) := ingestBeats_rest chunk h

/-- Settles O12: after the reset both states hold nothing and the same cancelled pipeline, and INGEST reads no more than
these (`ingestState`). -/
theorem nothingCrossesAReset : Obligations.NothingCrossesAReset := by
  intro s s' chunk hlen
  have hpipe : (resetBeat s).pipe = (resetBeat s').pipe := by rw [resetBeat_pipe, hlen, resetBeat_pipe]
  refine ⟨resetBeat s, resetBeat s', _, _, rfl, rfl, exec_ingest_rest chunk restBuffer_nil,
    exec_ingest_rest chunk restBuffer_nil, rfl, ?pipe, ?outs, rfl⟩
  case pipe => simp only [ingestState, hpipe, resetBeat_buf]
  case outs => simp only [ingestState, hpipe, resetBeat_buf]

/-! ### Frames and bytes held are input bytes in their order (R48, R112, R114) -/

/-- A PUSH at rest emits and keeps bytes that it was given, in order: EVICT takes a front, and of the rest all is kept,
all is emitted as one window, or a further front goes. -/
theorem pushBytes_sublist {bytes : List Byte} (b : Byte) (h : restBuffer bytes) :
    ((pushBytes bytes b).emitted.toList.flatMap Vector.toList ++ (pushBytes bytes b).buf).Sublist (bytes ++ [b]) := by
  have hheld := (evictBytes_suffix (bytes ++ [b])).sublist
  unfold pushBytes
  rcases resolve_cases _ (held_of_rest bytes b h) with ⟨-, hc⟩ | ⟨w, hw, -, hc⟩ | ⟨w, -, -, hc⟩
  · rw [hc]; exact hheld
  · rw [hc]; simpa [hw] using hheld
  · rw [hc]; exact ((evictBytes_suffix _).sublist.trans (List.drop_sublist 1 _)).trans hheld

/-- What a PUSH at rest keeps is the last of what it was given. -/
theorem pushBytes_suffix {bytes : List Byte} (b : Byte) (h : restBuffer bytes) :
    (pushBytes bytes b).buf <:+ bytes ++ [b] := by
  have hheld := evictBytes_suffix (bytes ++ [b])
  unfold pushBytes
  rcases resolve_cases _ (held_of_rest bytes b h) with ⟨-, hc⟩ | ⟨w, -, -, hc⟩ | ⟨w, -, -, hc⟩
  · rw [hc]; exact hheld
  · rw [hc]; exact List.nil_suffix
  · rw [hc]; exact ((evictBytes_suffix _).trans (List.drop_suffix 1 _)).trans hheld

theorem ingest_sublist (chunk : List Byte) {bytes : List Byte} (h : restBuffer bytes) :
    ((ingestFrames bytes chunk).flatMap Vector.toList ++ ingestBuffer bytes chunk).Sublist (bytes ++ chunk) := by
  induction chunk generalizing bytes with
  | nil => simp [ingestFrames, ingestEmissions, ingestBuffer]
  | cons b bs ih =>
    rw [ingestFrames_cons, List.flatMap_append, List.append_assoc, ingestBuffer]
    have hbs := (ih (pushBytes_rest bytes b h)).append_left ((pushBytes bytes b).emitted.toList.flatMap Vector.toList)
    have hb := (pushBytes_sublist b h).append_right bs
    rw [List.append_assoc] at hb
    exact List.append_cons bytes b bs ▸ hbs.trans hb

theorem ingestBuffer_suffix (chunk : List Byte) {bytes : List Byte} (h : restBuffer bytes) :
    ingestBuffer bytes chunk <:+ bytes ++ chunk := by
  induction chunk generalizing bytes with
  | nil => simp [ingestBuffer]
  | cons b bs ih =>
    have hb : (pushBytes bytes b).buf ++ bs <:+ bytes ++ [b] ++ bs :=
      List.suffix_append_self_iff.2 (pushBytes_suffix b h)
    exact List.append_cons bytes b bs ▸ (ih (pushBytes_rest bytes b h)).trans hb

/-- Settles O31, by induction over the chunk for the frames with the buffer (`ingest_sublist`) and for the buffer alone
(`ingestBuffer_suffix`). -/
theorem outputOrderIsInputOrder : Obligations.OutputOrderIsInputOrder := fun s chunk h =>
  ⟨ingestState chunk s, ingestFrames s.buf chunk, exec_ingest_rest chunk h, rfl, ingest_sublist chunk h,
    ingestBuffer_suffix chunk h⟩

end Sys2Proof.Machine
end

section
/-! ## The five checks are the valid-frame predicate, and a Reading gives its frame's fields back (30_encoding.md R62 to R69;
43_frame_validator.md R141 to R156) -/

namespace Sys2Proof.Machine

open Config

/-- Bit 7 of a byte is set exactly from 0x80 on (R66). -/
theorem getLsbD_seven_iff (b : Byte) : b.getLsbD 7 = true ↔ 0x80 ≤ b.toNat := by
  have hmsb : b.getLsbD 7 = b.msb := (BitVec.msb_eq_getLsbD_last b).symm
  rw [hmsb, BitVec.msb_eq_decide, decide_eq_true_iff]

theorem getLsbD_seven_eq_false_iff (b : Byte) : b.getLsbD 7 = false ↔ b.toNat ≤ 0x7F := by
  rw [← Bool.not_eq_true, getLsbD_seven_iff]; omega

theorem asciiDecodable_iff (b : Byte) : asciiDecodable b = true ↔ b.getLsbD 7 = false := by
  simp [asciiDecodable]

/-- R130's fold over the span is the XOR of the twelve bytes, written out. -/
theorem bccOf_eq_spanXor (f : Frame) : bccOf f = spanXor f ^^^ 0x03 := by
  have hspan : f.toList.take BCC_SPAN = [f[0], f[1], f[2], f[3], f[4], f[5], f[6], f[7], f[8], f[9], f[10], f[11]] := by
    apply List.ext_getElem
    · simp [BCC_SPAN]
    · intro k hk _
      have hk12 : k < 12 := by simpa [BCC_SPAN] using hk
      interval_cases k <;> simp
  rw [bccOf, hspan]
  simp [spanXor, ETX]

section
variable (f : Frame)

theorem checkMarkers_eq_none_iff :
    checkMarkers f = none ↔ f[0] = 0x01 ∧ f[1] = 0x02 ∧ f[13] = 0x03 ∧ f[14] = 0x04 := by
  rw [checkMarkers, ite_eq_left_iff]
  simp [SOH, STX, ETX, EOT]

theorem checkSign_eq_none_iff : checkSign f = none ↔ f[3] = 0x2D ∨ f[3] = 0x20 := by
  rw [checkSign, ite_eq_left_iff]
  simp [SIGN_MINUS, SIGN_SPACE, or_iff_not_imp_left]

theorem checkUnits_eq_none_iff : checkUnits f = none ↔ f[10].getLsbD 7 = false ∧ f[11].getLsbD 7 = false := by
  simp [checkUnits, asciiDecodable_iff]

theorem checkBcc_eq_none_iff : checkBcc f = none ↔ f[12] = spanXor f ^^^ 0x03 := by
  simp [checkBcc, bccOf_eq_spanXor]

/-- No check fails exactly on the valid frames (R69, R146). -/
theorem firstError_eq_none_iff : firstError f = none ↔ validFrame f := by
  simp only [firstError, Option.orElse_eq_none, checkMarkers_eq_none_iff,
    checkSign_eq_none_iff, checkUnits_eq_none_iff, checkBcc_eq_none_iff, validFrame]

/-- DECODE is a Reading exactly on the valid frames, and then it is the frame's own (R69, R153). -/
theorem decodeBytes_eq_reading_iff (r : Reading) :
    decodeBytes f.toList = .reading r ↔ validFrame f ∧ r = readingOf f := by
  rw [decodeBytes_toList, ← firstError_eq_none_iff]
  cases firstError f <;> simp [eq_comm]

theorem exec_decode_eq_reading_iff (s : State) (r : Reading) :
    exec (.decode f.toList) s = .next { s with outs := [], result := .decoded (.reading r) } ↔
      validFrame f ∧ r = readingOf f := by
  rw [← decodeBytes_eq_reading_iff]
  constructor
  · intro h
    have hanswer := congrArg State.result (Host.Outcome.next.inj h)
    exact Result.decoded.inj hanswer
  · intro h
    rw [← h]
    rfl

/-! ### The status maps are injective on the members they recognise (R63, R64) -/

@[simp] theorem statusOf_eq_overload_iff : statusOf f = .overload ↔ f[2] = STATUS_F := by
  unfold statusOf; split_ifs <;> simp_all

@[simp] theorem statusOf_eq_stable_iff : statusOf f = .stable ↔ f[2] = STATUS_S := by
  unfold statusOf; split_ifs <;> simp_all [STATUS_F, STATUS_S]

@[simp] theorem statusOf_eq_unstable_iff : statusOf f = .unstable ↔ f[2] = STATUS_U := by
  unfold statusOf; split_ifs <;> simp_all [STATUS_F, STATUS_S, STATUS_U]

@[simp] theorem statusOf_eq_unknown_iff :
    statusOf f = .unknown ↔ f[2] ≠ STATUS_F ∧ f[2] ≠ STATUS_S ∧ f[2] ≠ STATUS_U := by
  unfold statusOf; split_ifs <;> simp_all

@[simp] theorem status2Of_eq_none_iff : status2Of f = .none ↔ f[15] = 0x00 := by
  unfold status2Of; split_ifs <;> simp_all

@[simp] theorem status2Of_eq_zero_iff : status2Of f = .zero ↔ f[15] = 0x10 := by
  unfold status2Of; split_ifs <;> simp_all

@[simp] theorem status2Of_eq_tare_iff : status2Of f = .tare ↔ f[15] = 0x20 := by
  unfold status2Of; split_ifs <;> simp_all

@[simp] theorem status2Of_eq_overload_iff : status2Of f = .overload ↔ f[15] = 0x40 := by
  unfold status2Of; split_ifs <;> simp_all

@[simp] theorem status2Of_eq_unknown_iff :
    status2Of f = .unknown ↔ f[15] ≠ 0x00 ∧ f[15] ≠ 0x10 ∧ f[15] ≠ 0x20 ∧ f[15] ≠ 0x40 := by
  unfold status2Of; split_ifs <;> simp_all

/-! ### The sign and the weight (R62, R149, R150) -/

theorem digitsOf_toList : (digitsOf f).toList = [f[4], f[5], f[6], f[7], f[8], f[9]] := rfl

theorem isPositiveOf_iff : isPositiveOf f = true ↔ f[3] ≠ 0x2D := by
  simp [isPositiveOf, SIGN_MINUS]

/-- The sign byte that passed its check is known from `isPositive` (R143, R150). -/
theorem sign_of_isPositiveOf {f : Frame} (hsign : f[3] = 0x2D ∨ f[3] = 0x20) :
    f[3] = if isPositiveOf f = true then 0x20 else 0x2D := by
  rcases hsign with h | h <;> simp [isPositiveOf_iff, h]

theorem signChars_eq : signChars f = if isPositiveOf f = true then [] else [0x2D] := by
  by_cases h : f[3] = 0x2D <;> simp [signChars, negOf, isPositiveOf, SIGN_MINUS, h]

theorem weightOf_length : (weightOf f).length = if isPositiveOf f = true then 6 else 7 := by
  rw [weightOf, List.length_append, digitsOf_toList, signChars_eq]
  split_ifs <;> rfl

/-- The last six bytes of the weight are the digits, whatever the sign prepends (R149). -/
theorem weightOf_drop : (weightOf f).drop ((weightOf f).length - 6) = (digitsOf f).toList := by
  have hlen : (weightOf f).length - 6 = (signChars f).length := by
    simp [weightOf]
  rw [hlen, weightOf, List.drop_left]

end

/-- Settles O45: DECODE is a Reading exactly on the valid frames (`exec_decode_eq_reading_iff`), and each field of that
Reading is read backwards by the lemma about its map. -/
theorem validFramesRoundTrip : Obligations.ValidFramesRoundTrip := by
  intro s f
  constructor
  · constructor
    · exact fun hvalid => ⟨readingOf f, (exec_decode_eq_reading_iff f s _).2 ⟨hvalid, rfl⟩⟩
    · rintro ⟨r, hr⟩
      exact ((exec_decode_eq_reading_iff f s r).1 hr).1
  · intro r hr
    obtain ⟨⟨-, hsign, -, -⟩, rfl⟩ := (exec_decode_eq_reading_iff f s r).1 hr
    exact ⟨sign_of_isPositiveOf hsign, weightOf_drop f, weightOf_length f, rfl,
      (statusOf_eq_overload_iff f).1, (statusOf_eq_stable_iff f).1, (statusOf_eq_unstable_iff f).1,
      (status2Of_eq_none_iff f).1, (status2Of_eq_zero_iff f).1, (status2Of_eq_tare_iff f).1,
      (status2Of_eq_overload_iff f).1⟩

end Sys2Proof.Machine
end

section
/-! ## The words of the beats, and the words that no row has (30_encoding.md R61, R62, R66, R68, R71, R72) -/

namespace Sys2Proof

open Config

/-- Settles O3: the three parts of a beat word are read back (`decodeBeat_beatWord`), the reset first. -/
theorem beatWordsSelectTheirOperation : Obligations.BeatWordsSelectTheirOperation :=
  fun rst inValid b => congrArg Except.ok (decodeBeat_beatWord rst inValid b)

/-- The six codes 0 to 5 have rows; 6 and 7 are never produced (R72). -/
theorem decodeErrCode_of_six_le {c : BitVec 3} (h : 6 ≤ c.toNat) : decodeErrCode c = .error .codeNeverProduced := by
  have hne : ∀ k : BitVec 3, k.toNat < 6 → c ≠ k := by
    rintro k hk rfl
    omega
  simp [decodeErrCode, hne]

theorem decodeByte_of_not_marker {b : Byte} (h1 : b ≠ SOH) (h2 : b ≠ STX) (h3 : b ≠ ETX) (h4 : b ≠ EOT) :
    decodeByte b = .error .notAMarker := by
  rw [decodeByte, if_neg h1, if_neg h2, if_neg h3, if_neg h4]

theorem decodeWindow_of_not_soh {f : Frame} (h : f[0] ≠ SOH) : decodeWindow f = .error .notAWindow := if_pos h

theorem decodeSign_of_no_sign {f : Frame} (hm : f[3] ≠ SIGN_MINUS) (hs : f[3] ≠ SIGN_SPACE) :
    decodeSign f = .error .notASign := by
  rw [decodeSign, if_neg hm, if_neg hs]

theorem decodeUnits_of_high_byte {f : Frame} (h : 0x80 ≤ f[10].toNat ∨ 0x80 ≤ f[11].toNat) :
    decodeUnits f = .error .unitsNotAscii := by
  rw [← Machine.getLsbD_seven_iff, ← Machine.getLsbD_seven_iff, ← Bool.or_eq_true] at h
  exact if_pos h

/-- A step that meets a word of no row is refused with the decoder's reason (log 12). -/
theorem Machine.step_of_decode_error {s : State} {c : Code} {rest : List Code} {why : DecodeReject}
    (hin : s.input = c :: rest) (hdec : decode c = .error why) : step s = .refused (.noRow why) := by
  simp only [step, hin, hdec]

/-- Settles O5, format by format: each decoder's last branch, and the step's. -/
theorem wordsOfNoRowAreRefused : Obligations.WordsOfNoRowAreRefused := by
  refine ⟨fun _ => decodeErrCode_of_six_le, fun _ => decodeByte_of_not_marker, fun f h => ?window,
    fun f hm hs => ?sign, fun f h => ?units, fun _ _ _ _ => Machine.step_of_decode_error⟩
  case window => rw [decode_packFrame]; exact decodeWindow_of_not_soh h
  case sign => rw [decode_packFrame]; exact decodeSign_of_no_sign hm hs
  case units => rw [decode_packFrame]; exact decodeUnits_of_high_byte h

end Sys2Proof
end

section
/-! ## The rows that are tables: patterns, fields, constants and codes (30_encoding.md R60 to R66, R68, R72 to R74; log 11) -/

namespace Sys2Proof.Machine

open Config

/-- The value of a field row, where its frame holds the row's byte (R62 to R64, R66, R73); `none` for an instruction that is no
field row with a byte condition. -/
def fieldValue : Instr → Option Result
  | .signMinus _ => some (.sign false true [0x2D])
  | .signSpace _ => some (.sign true false [])
  | .statusOverload _ => some (.status .overload 0)
  | .statusStable _ => some (.status .stable 1)
  | .statusUnstable _ => some (.status .unstable 2)
  | .statusUnknown _ => some (.status .unknown 3)
  | .status2None _ => some (.status2 .none 0)
  | .status2Zero _ => some (.status2 .zero 1)
  | .status2Tare _ => some (.status2 .tare 2)
  | .status2Overload _ => some (.status2 .overload 3)
  | .status2Unknown _ => some (.status2 .unknown 4)
  | .units f => some (.units (unitsOf f))
  | _ => none

/-- Field rows agree where their tests do, and their values wherever the test holds. -/
theorem fieldRow_congr {holds holds' : Bool} {r r' : Result} (s : State) (htest : holds = true ↔ holds' = true)
    (hvalue : holds = true → r = r') : fieldRow holds r s = fieldRow holds' r' s := by
  obtain rfl : holds = holds' := Bool.eq_iff_iff.2 htest
  cases holds with
  | false => rfl
  | true => rw [hvalue rfl]

/-- Every field row answers its value where its instruction is well formed, and `noMatch` elsewhere (log 11). -/
theorem exec_fieldValue {i : Instr} {r : Result} (h : fieldValue i = some r) (s : State) :
    exec i s = .next (fieldRow i.wf r s) := by
  cases i with
  | signMinus f | signSpace f =>
    cases h
    exact congrArg _ (fieldRow_congr s Iff.rfl fun hsign => by
      simp [signChars, isPositiveOf, negOf, beq_iff_eq.1 hsign, SIGN_MINUS, SIGN_SPACE])
  | statusOverload f | statusStable f | statusUnstable f | statusUnknown f
  | status2None f | status2Zero f | status2Tare f | status2Overload f | status2Unknown f =>
    cases h
    exact congrArg _ (fieldRow_congr s (by simp [Instr.wf, and_assoc]) fun _ => rfl)
  | units f => cases h; rfl
  | _ => cases h

theorem exec_fieldValue_of_wf {i : Instr} {r : Result} (h : fieldValue i = some r) (hwf : i.wf = true) (s : State) :
    exec i s = .next (answer r s) := by
  rw [exec_fieldValue h, hwf]; rfl

theorem exec_fieldValue_of_not_wf {i : Instr} {r : Result} (h : fieldValue i = some r) (hwf : i.wf = false) (s : State) :
    exec i s = .next (answer .noMatch s) := by
  rw [exec_fieldValue h, hwf]; rfl

/-- Settles O55: all twelve rows are in the table of values. -/
theorem fieldRowsWithoutTheirByteAnswerNoMatch : Obligations.FieldRowsWithoutTheirByteAnswerNoMatch := by
  intro s f i hrow hwf
  have hvalue : ∃ r, fieldValue i = some r := by
    rcases hrow with rfl | rfl | rfl | rfl | rfl | rfl | rfl | rfl | rfl | rfl | rfl | rfl <;> exact ⟨_, rfl⟩
  obtain ⟨r, hr⟩ := hvalue
  exact exec_fieldValue_of_not_wf hr hwf s

/-- Settles O52, row by row of the table of values. -/
theorem statusRowsMapByteTwo : Obligations.StatusRowsMapByteTwo := by
  intro s f
  refine ⟨fun h => ?overload, fun h => ?stable, fun h => ?unstable, fun hF hS hU => ?unknown⟩
  all_goals exact exec_fieldValue_of_wf rfl (by simp_all [Instr.wf, STATUS_F, STATUS_S, STATUS_U]) s

/-- Settles O53, row by row of the table of values. -/
theorem status2RowsMapByteFifteen : Obligations.Status2RowsMapByteFifteen := by
  intro s f
  refine ⟨fun h => ?none, fun h => ?zero, fun h => ?tare, fun h => ?overload, fun h0 h1 h2 h4 => ?unknown⟩
  all_goals exact exec_fieldValue_of_wf rfl (by simp_all [Instr.wf]) s

theorem exec_checkSign_of_eq {f : Frame} {e : Option DecodeError} (h : checkSign f = e) (s : State) :
    exec (.checkSign f) s = .next (answer (.verdict e) s) := h ▸ rfl

theorem exec_checkUnits_of_eq {f : Frame} {e : Option DecodeError} (h : checkUnits f = e) (s : State) :
    exec (.checkUnits f) s = .next (answer (.verdict e) s) := h ▸ rfl

theorem checkSign_of_no_sign {f : Frame} (hm : f[3] ≠ 0x2D) (hs : f[3] ≠ 0x20) : checkSign f = some .invalidSign :=
  if_neg (not_or.2 ⟨hm, hs⟩)

/-- Settles O51: the two sign rows of the table of values, and the sign check elsewhere. -/
theorem theSignHasTwoValues : Obligations.TheSignHasTwoValues := by
  intro s f
  refine ⟨fun h => ?minus, fun h => ?space, fun hm hs => ?other⟩
  case other => exact exec_checkSign_of_eq (checkSign_of_no_sign hm hs) s
  all_goals exact exec_fieldValue_of_wf rfl (by simp [Instr.wf, SIGN_MINUS, SIGN_SPACE, h]) s

theorem units_wf_iff (f : Frame) : (Instr.units f).wf = true ↔ f[10].toNat ≤ 0x7F ∧ f[11].toNat ≤ 0x7F := by
  rw [Instr.wf, Bool.and_eq_true, Bool.not_eq_true', Bool.not_eq_true', getLsbD_seven_eq_false_iff,
    getLsbD_seven_eq_false_iff]

/-- The units check fails exactly where the units row's condition does (R66, R144). -/
theorem checkUnits_of_high_byte {f : Frame} (h : 0x7F < f[10].toNat ∨ 0x7F < f[11].toNat) :
    checkUnits f = some .invalidUnits := by
  have hwf : ¬ (Instr.units f).wf = true := by rw [units_wf_iff]; omega
  exact if_neg hwf

/-- Settles O54: the weight row has no condition, the units row is in the table of values, and elsewhere the units check
fails. -/
theorem weightAndUnitsAreTakenAsTheyStand : Obligations.WeightAndUnitsAreTakenAsTheyStand := by
  intro s f
  refine ⟨rfl, fun h10 h11 => ?units, fun h => ?other⟩
  case units => exact exec_fieldValue_of_wf rfl ((units_wf_iff f).2 ⟨h10, h11⟩) s
  case other => exact exec_checkUnits_of_eq (checkUnits_of_high_byte h) s

/-! ### Patterns, constants and codes (R60, R61, R68, R72) -/

theorem isCandidate_iff (f : Frame) : isCandidate f = true ↔ f[0] = 0x01 ∧ f[1] = 0x02 := by
  simp [isCandidate, SOH, STX]

theorem isFalseStart_iff (f : Frame) : isFalseStart f = true ↔ f[0] = 0x01 ∧ f[1] ≠ 0x02 := by
  simp [isFalseStart, SOH, STX]

/-- Settles O49: the two rows answer the tests `isCandidate` and `isFalseStart`. -/
theorem candidateAndFalseStartPartitionTheWindows : Obligations.CandidateAndFalseStartPartitionTheWindows :=
  fun _ f => ⟨isCandidate f, isFalseStart f, rfl, rfl, isCandidate_iff f, isFalseStart_iff f⟩

theorem layout_digits (x : FrameFields) (k : Nat) (h : k < 6) : x.layout[4 + k] = x.digits[k] := by
  interval_cases k <;> rfl

/-- Settles O50: the row answers the layout, whose bytes stand where R60's table has them. -/
theorem frameLaysItsFieldsOut : Obligations.FrameLaysItsFieldsOut :=
  fun _ x => ⟨x.layout, rfl, rfl, rfl, rfl, rfl, layout_digits x, rfl, rfl, rfl, rfl, rfl, rfl⟩

/-- Settles O56: each constant's row answers it. -/
theorem markerConstantsAreTheSpecs : Obligations.MarkerConstantsAreTheSpecs := fun _ => ⟨rfl, rfl, rfl, rfl⟩

/-- Settles O57: each code's row answers it with its class. -/
theorem errorCodesFollowTheOrderOfTheChecks : Obligations.ErrorCodesFollowTheOrderOfTheChecks :=
  fun _ => ⟨rfl, rfl, rfl, rfl, rfl, rfl⟩

end Sys2Proof.Machine
end

section
/-! ## The primitives of byte_accumulator, inside and outside their preconditions (40_byte_accumulator.md R91 to R96) -/

namespace Sys2Proof.Machine

section
variable {s : State}

theorem exec_append_of_room (b : Byte) (h : s.buf.length ≤ 15) :
    exec (.append b) s = .next (answer .nothing { s with buf := s.buf ++ [b] }) :=
  if_pos (Nat.lt_succ_of_le h)

theorem exec_append_of_full (b : Byte) (h : 16 ≤ s.buf.length) : exec (.append b) s = .refused .bufferFull :=
  if_neg (Nat.not_lt.2 h)

theorem exec_window_of_frame {w : Frame} (h : s.buf = w.toList) : exec .window s = .next (answer (.frame w) s) := by
  have hw : Frame.ofBytes? s.buf = some w := (ofBytes_eq_some_iff _ _).2 h.symm
  show execWindow s = _
  rw [execWindow, hw]

theorem exec_window_of_length_ne (h : s.buf.length ≠ 16) : exec .window s = .refused .windowNotFull := by
  have hw : Frame.ofBytes? s.buf = none := (ofBytes_eq_none_iff _).2 h
  show execWindow s = _
  rw [execWindow, hw]

theorem exec_dropfront_of_held {n : Nat} (h : n ≤ s.buf.length) :
    exec (.dropfront n) s = .next (answer .nothing { s with buf := s.buf.drop n }) :=
  if_pos h

theorem exec_dropfront_past_end {n : Nat} (h : s.buf.length < n) : exec (.dropfront n) s = .refused .dropPastEnd :=
  if_neg (Nat.not_le.2 h)

theorem exec_evict (s : State) : exec .evict s = .next (answer .nothing { s with buf := evictBytes s.buf }) := rfl

theorem exec_clear (s : State) : exec .clear s = .next (answer .nothing { s with buf := [] }) := rfl

end

/-- Settles O22: with room for a byte APPEND is taken. -/
theorem appendAddsTheByteAtTheBack : Obligations.AppendAddsTheByteAtTheBack :=
  fun _ b h => exec_append_of_room b h

/-- Settles O23: sixteen bytes held are a window, and answering it leaves the buffer. -/
theorem windowCopiesTheSixteenBytes : Obligations.WindowCopiesTheSixteenBytes :=
  fun _ _ h => exec_window_of_frame h

/-- Settles O24: the front is no longer than what is held, and dropping its length leaves the rest. -/
theorem dropfrontRemovesTheOldestBytes : Obligations.DropfrontRemovesTheOldestBytes := by
  intro s gone kept h
  have hheld : gone.length ≤ s.buf.length := by simp [h]
  have hkept : s.buf.drop gone.length = kept := by rw [h, List.drop_left]
  rw [exec_dropfront_of_held hheld, hkept]
  rfl

/-- Settles O25: the split of EVICT (`evictBytes_split`), whose second part starts at an SOH if it is not empty. -/
theorem evictStopsAtTheFirstSohAndClearAtNone : Obligations.EvictStopsAtTheFirstSohAndClearAtNone := by
  intro s
  obtain ⟨gone, hsplit, hgone⟩ := evictBytes_split s.buf
  have hkept := (startsAtSoh_iff _).1 (startsAtSoh_evictBytes s.buf)
  exact ⟨⟨gone, evictBytes s.buf, hsplit, hgone, hkept, exec_evict s⟩, exec_clear s⟩

/-- Settles O26: the refusing side of each of the three preconditions. -/
theorem primitivesOutsideTheirPreconditionsAreRefused : Obligations.PrimitivesOutsideTheirPreconditionsAreRefused :=
  fun _ b _ => ⟨exec_append_of_full b, exec_window_of_length_ne, exec_dropfront_past_end⟩

end Sys2Proof.Machine
end

section
/-! ## A PUSH and its four outcomes (41_frame_synchronizer.md R102 to R107) -/

namespace Sys2Proof.Machine

open Config

/-! ### The decision on the bytes held -/

theorem resolve_of_short {held : List Byte} (h : held.length < 16) :
    resolve held = { buf := held, outcome := if held = [] then .purge else .wait, emitted := none } := by
  rw [resolve, (ofBytes_eq_none_iff held).2 (by omega)]

theorem resolve_of_stx {w : Frame} (h : w[1] = STX) :
    resolve w.toList = { buf := [], outcome := .accept, emitted := some w } := by
  rw [resolve, ofBytes_toList]
  simp [h, FRAME_LEN]

theorem resolve_of_not_stx {w : Frame} (h : w[1] ≠ STX) :
    resolve w.toList = { buf := evictBytes (w.toList.drop 1), outcome := .resync, emitted := none } := by
  rw [resolve, ofBytes_toList]
  exact if_neg h

/-! ### The beat that carries a decision out -/

/-- The beat of a PUSH that decides `p`: its word is presented, its buffer kept and its outcome answered (R102, R170). -/
def decided (p : PushStep) (s : State) : State :=
  { present (outWordOf p.emitted) s with buf := p.buf, result := .outcome p.outcome }

theorem exec_push_rest (b : Byte) {s : State} (h : restBuffer s.buf) :
    exec (.push b) s = .next (decided (resolve (evictBytes (s.buf ++ [b]))) s) := pushBeat_rest b s h

theorem heldForDecision_iff (bytes : List Byte) :
    heldForDecision bytes = true ↔ bytes.length ≤ 16 ∧ (bytes = [] ∨ bytes.head? = some 0x01) := by
  rw [heldForDecision, Bool.and_eq_true, decide_eq_true_iff, startsAtSoh_iff, BUF_CAP]

theorem frame_ne_nil (w : Frame) : w.toList ≠ [] := by
  intro h
  simpa using congrArg List.length h

theorem head?_frame (w : Frame) : w.toList.head? = some w[0] := by
  simp [List.head?_eq_getElem?]

theorem heldForDecision_frame {w : Frame} (h : w[0] = 0x01) : heldForDecision w.toList = true :=
  (heldForDecision_iff _).2 ⟨by simp, .inr (by rw [head?_frame, h])⟩

theorem exec_rowOf (o : PushOutcome) (s : State) : exec (rowOf o) s = .next (takeOutcome o s) := by
  cases o <;> rfl

/-- The row of the outcome that is decided is that decision's beat. -/
theorem takeOutcome_of_decision {s : State} {p : PushStep} (h : heldForDecision s.buf = true) (hp : resolve s.buf = p) :
    takeOutcome p.outcome s = decided p s := by
  subst hp
  rcases takeOutcome_cases (resolve s.buf).outcome s with ⟨-, -, ht⟩ | ⟨hoff, -⟩
  · exact ht
  · exact absurd ⟨h, rfl⟩ hoff

theorem takeOutcome_of_ne {o : PushOutcome} {s : State} (h : o ≠ (resolve s.buf).outcome) :
    takeOutcome o s = answer .notTaken s := by
  rcases takeOutcome_cases o s with ⟨-, ho, -⟩ | ⟨-, ht⟩
  · exact absurd ho.symm h
  · exact ht

/-- Settles O14: a PUSH at rest carries out the decision on what is held (`exec_push_rest`), in each of its three cases. -/
theorem pushAppendsEvictsAndDecides : Obligations.PushAppendsEvictsAndDecides := by
  intro s b held hrest hheld
  obtain rfl : held = evictBytes (s.buf ++ [b]) := hheld
  have hpush := exec_push_rest b hrest
  have hlen := held_of_rest s.buf b hrest
  refine ⟨fun hshort => ?keep, fun w hw hstx => ?accept, fun w hw hstx => ?resync, ?total,
    _, hpush, pushBytes_rest s.buf b hrest⟩
  case keep => rw [hpush, resolve_of_short hshort]; simp only [List.length_eq_zero_iff]; rfl
  case accept => rw [hpush, ← hw, resolve_of_stx hstx]; rfl
  case resync => rw [hpush, ← hw, resolve_of_not_stx hstx]; rfl
  case total =>
    rcases Nat.lt_or_eq_of_le hlen with hlt | heq
    · exact .inl hlt
    · exact .inr (exists_frame_of_length _ heq)

/-- APPEND and EVICT at rest, and then an outcome row: the row meets what a PUSH decides on (R103). -/
theorem runAll_push_rows (b : Byte) (o : PushOutcome) {s : State} (h : restBuffer s.buf) :
    runAll [.append b, .evict, rowOf o] s =
      .next (takeOutcome o (answer .nothing { s with buf := evictBytes (s.buf ++ [b]) })) := by
  simp only [runAll, exec_append_of_room b h.1, exec_evict, exec_rowOf]
  rfl

/-- Settles O15: the outcome is the one decided on what APPEND and EVICT leave, where every other row is off its
condition. -/
theorem pushIsItsPrimitivesAndOneOutcome : Obligations.PushIsItsPrimitivesAndOneOutcome := by
  intro s b h
  refine ⟨(pushBytes s.buf b).outcome, _, exec_push_rest b h, rfl, ?same, fun o ho => ?others⟩
  case same =>
    rw [runAll_push_rows b _ h]
    exact congrArg _ (takeOutcome_of_decision (heldForDecision_evictBytes s.buf b h) rfl)
  case others => exact ⟨_, runAll_push_rows b o h, by rw [takeOutcome_of_ne ho]; rfl⟩

/-- Settles O19: the row of the outcome that a full window from SOH decides. -/
theorem acceptAndResyncResolveAFullWindow : Obligations.AcceptAndResyncResolveAFullWindow := by
  intro s w hbuf h0
  have hheld : heldForDecision s.buf = true := hbuf ▸ heldForDecision_frame h0
  constructor
  · intro hstx
    exact congrArg _ (takeOutcome_of_decision hheld (hbuf ▸ resolve_of_stx hstx))
  · intro hstx
    have hp : resolve s.buf = { buf := evictBytes (w.toList.drop 1), outcome := .resync, emitted := none } := by
      rw [hbuf, resolve_of_not_stx hstx]
    exact congrArg _ (takeOutcome_of_decision hheld hp)

/-- Settles O20: the row of the outcome that fewer than sixteen bytes decide. -/
theorem waitAndPurgeEmitNothing : Obligations.WaitAndPurgeEmitNothing := by
  constructor
  · intro s xs hbuf hlen
    have hheld : heldForDecision s.buf = true := (heldForDecision_iff _).2 (by simp [hbuf]; omega)
    have hkeep : resolve s.buf = { buf := s.buf, outcome := .wait, emitted := none } := by
      rw [resolve_of_short (by simp [hbuf]; omega), if_neg (by simp [hbuf])]
    exact congrArg _ (takeOutcome_of_decision hheld hkeep)
  · intro s hbuf
    have hheld : heldForDecision s.buf = true := (heldForDecision_iff _).2 (by simp [hbuf])
    have hkeep : resolve s.buf = { buf := s.buf, outcome := .purge, emitted := none } := by
      rw [resolve_of_short (by simp [hbuf]), if_pos hbuf]
    exact congrArg _ (takeOutcome_of_decision hheld hkeep)

/-- Settles O21: where a row is taken, the case of the decision (`resolve_cases`) that names it has its condition. -/
theorem anOutcomeRowOffItsConditionIsNotTaken : Obligations.AnOutcomeRowOffItsConditionIsNotTaken := by
  intro s o hoff
  rcases takeOutcome_cases o s with ⟨hheld, rfl, -⟩ | ⟨-, ht⟩
  · obtain ⟨hlen, hsoh⟩ := (heldForDecision_iff _).1 hheld
    refine absurd ?_ hoff
    rcases resolve_cases s.buf hlen with ⟨hshort, hp⟩ | ⟨w, hw, hstx, hp⟩ | ⟨w, hw, hstx, hp⟩
    · rw [hp]
      by_cases hnil : s.buf = []
      · simp [hnil]
      · have hpos : 1 ≤ s.buf.length := List.length_pos_iff.2 hnil
        simp only [if_neg hnil]
        exact ⟨hpos, Nat.le_of_lt_succ hshort, hsoh.resolve_left hnil⟩
    · rw [hp]
      exact ⟨by simp [← hw], hsoh.resolve_left (hw ▸ frame_ne_nil w), by simpa [← hw] using hstx⟩
    · rw [hp]
      exact ⟨by simp [← hw], hsoh.resolve_left (hw ▸ frame_ne_nil w), by simpa [← hw] using hstx⟩
  · rw [exec_rowOf, ht]; rfl

end Sys2Proof.Machine
end

section
/-! ## The stream function, and INGEST as its refinement (41_frame_synchronizer.md R108, R111, R122) -/

namespace Sys2Proof.Machine

open Config

/-! ### EVICT in front of more bytes -/

theorem evictBytes_evictBytes_append (l more : List Byte) :
    evictBytes (evictBytes l ++ more) = evictBytes (l ++ more) := by
  induction l with
  | nil => rfl
  | cons b l ih =>
    rw [evictBytes_cons]
    split
    · rfl
    · next hb => rw [ih, List.cons_append, evictBytes_cons b, if_neg hb]

theorem evictBytes_frame_append {w : Frame} (h : w[0] = 0x01) (left : List Byte) :
    evictBytes (w.toList ++ left) = w.toList ++ left := by
  refine evictBytes_of_startsAtSoh _ ((startsAtSoh_iff _).2 (.inr ?_))
  rw [List.head?_append, head?_frame, h]
  rfl

theorem exists_window {l : List Byte} (h : 16 ≤ l.length) : ∃ (w : Frame) (left : List Byte), l = w.toList ++ left := by
  obtain ⟨w, hw⟩ := exists_frame_of_length (l.take 16) (by simpa using h)
  exact ⟨w, l.drop 16, by rw [hw, List.take_append_drop]⟩

/-- Where the next SOH has sixteen bytes from it, they are a window (R122). -/
theorem evictBytes_cases (l : List Byte) :
    (evictBytes l).length < 16 ∨ ∃ (w : Frame) (left : List Byte), w[0] = 0x01 ∧ evictBytes l = w.toList ++ left := by
  rcases Nat.lt_or_ge (evictBytes l).length 16 with hshort | hfull
  · exact .inl hshort
  · obtain ⟨w, left, hw⟩ := exists_window hfull
    have hsoh := startsAtSoh_evictBytes l
    rw [hw, startsAtSoh_iff, List.head?_append, head?_frame] at hsoh
    exact .inr ⟨w, left, by simpa [frame_ne_nil] using hsoh, hw⟩

/-! ### One turn of the scan -/

theorem scanStream_short (n : Nat) {l : List Byte} (h : (evictBytes l).length < 16) :
    scanStream (n + 1) l = ([], evictBytes l) := by
  cases hl : evictBytes l with
  | nil =>
    unfold evictBytes at hl
    simp only [scanStream, hl]
  | cons soh rest =>
    have hnone : Frame.ofBytes? ((soh :: rest).take FRAME_LEN) = none := by
      rw [ofBytes_eq_none_iff, ← hl, List.length_take, FRAME_LEN]
      omega
    unfold evictBytes at hl
    simp only [scanStream, hl, hnone]

theorem scanStream_window (n : Nat) {l left : List Byte} {w : Frame} (h : evictBytes l = w.toList ++ left) :
    scanStream (n + 1) l =
      if w[1] = 0x02 then (w :: (scanStream n left).1, (scanStream n left).2)
      else scanStream n (w.toList.drop 1 ++ left) := by
  have hw : Frame.ofBytes? ((evictBytes l).take FRAME_LEN) = some w := by
    rw [ofBytes_eq_some_iff, h, List.take_left']
    simp [FRAME_LEN]
  have hleft : (evictBytes l).drop FRAME_LEN = left := by
    rw [h, List.drop_left']
    simp [FRAME_LEN]
  have hone : (evictBytes l).drop 1 = w.toList.drop 1 ++ left := by
    rw [h, List.drop_append_of_le_length (by simp)]
  cases hl : evictBytes l with
  | nil => exact absurd (hl.symm.trans h) (by simp)
  | cons soh rest =>
    rw [hl] at hw hleft hone
    unfold evictBytes at hl
    simp only [scanStream, hl, hw, hleft, ← hone, List.drop_succ_cons, List.drop_zero, STX]

/-- As many turns as there are bytes suffice. -/
theorem scanStream_fuel {n m : Nat} {l : List Byte} (hn : l.length ≤ n) (hm : l.length ≤ m) :
    scanStream n l = scanStream m l := by
  induction n generalizing m l with
  | zero =>
    obtain rfl := List.length_eq_zero_iff.1 (Nat.le_zero.1 hn)
    cases m <;> rfl
  | succ n ih =>
    cases m with
    | zero =>
      obtain rfl := List.length_eq_zero_iff.1 (Nat.le_zero.1 hm)
      rfl
    | succ m =>
      rcases evictBytes_cases l with hshort | ⟨w, left, -, hw⟩
      · rw [scanStream_short n hshort, scanStream_short m hshort]
      · have hlen : 16 + left.length ≤ l.length := by
          simpa [hw] using evictBytes_length_le l
        have hleft : scanStream n left = scanStream m left := ih (by omega) (by omega)
        have hone : scanStream n (w.toList.drop 1 ++ left) = scanStream m (w.toList.drop 1 ++ left) :=
          ih (by simp; omega) (by simp; omega)
        rw [scanStream_window n hw, scanStream_window m hw, hleft, hone]

/-! ### The scan of a whole sequence -/

/-- `Frames` and `Rest` of a sequence together (R122). -/
def streamScan (bytes : List Byte) : List Frame × List Byte := (streamFrames bytes, streamRest bytes)

theorem streamScan_eq_succ (l : List Byte) : streamScan l = scanStream (l.length + 1) l :=
  scanStream_fuel (Nat.le_refl _) (Nat.le_succ _)

theorem streamScan_short {l : List Byte} (h : (evictBytes l).length < 16) : streamScan l = ([], evictBytes l) := by
  rw [streamScan_eq_succ, scanStream_short _ h]

theorem streamScan_rest {l : List Byte} (h : restBuffer l) : streamScan l = ([], l) := by
  have hl : evictBytes l = l := by
    rw [evictBytes_of_startsAtSoh]
    rw [startsAtSoh_iff, ← List.length_eq_zero_iff]
    exact h.2
  rw [streamScan_short (by rw [hl]; exact Nat.lt_succ_of_le h.1), hl]

theorem streamScan_window {w : Frame} (h0 : w[0] = 0x01) (left : List Byte) :
    streamScan (w.toList ++ left) =
      if w[1] = 0x02 then (w :: (streamScan left).1, (streamScan left).2)
      else streamScan (w.toList.drop 1 ++ left) := by
  have hleft : scanStream (w.toList ++ left).length left = streamScan left :=
    scanStream_fuel (by simp) (Nat.le_refl _)
  have hone : scanStream (w.toList ++ left).length (w.toList.drop 1 ++ left) = streamScan (w.toList.drop 1 ++ left) :=
    scanStream_fuel (by simp) (Nat.le_refl _)
  rw [streamScan_eq_succ, scanStream_window _ (evictBytes_frame_append h0 left), hleft, hone]

theorem streamScan_evictBytes (l : List Byte) : streamScan (evictBytes l) = streamScan l := by
  have hidem : evictBytes (evictBytes l) = evictBytes l := evictBytes_of_startsAtSoh _ (startsAtSoh_evictBytes l)
  rcases evictBytes_cases l with hshort | ⟨w, left, -, hw⟩
  · rw [streamScan_short hshort, streamScan_short (by rwa [hidem]), hidem]
  · have hlen := evictBytes_length_le l
    have hfuel : streamScan (evictBytes l) = scanStream (l.length + 1) (evictBytes l) :=
      scanStream_fuel (Nat.le_refl _) (by omega)
    rw [hfuel, streamScan_eq_succ, scanStream_window _ hw, scanStream_window _ (hidem.trans hw)]

theorem streamScan_evictBytes_append (l more : List Byte) : streamScan (evictBytes l ++ more) = streamScan (l ++ more) := by
  rw [← streamScan_evictBytes, evictBytes_evictBytes_append, streamScan_evictBytes]

/-! ### INGEST is the scan of the bytes held and the chunk -/

/-- A PUSH at rest takes out of the scan what it emits, and leaves the scan of what it keeps (R102, R122). -/
theorem streamScan_push {bytes : List Byte} (b : Byte) (bs : List Byte) (h : restBuffer bytes) :
    streamScan (bytes ++ b :: bs) =
      ((pushBytes bytes b).emitted.toList ++ (streamScan ((pushBytes bytes b).buf ++ bs)).1,
        (streamScan ((pushBytes bytes b).buf ++ bs)).2) := by
  have hlen := held_of_rest bytes b h
  have hsoh := startsAtSoh_evictBytes (bytes ++ [b])
  rw [List.append_cons, ← streamScan_evictBytes_append, pushBytes]
  generalize evictBytes (bytes ++ [b]) = held at hlen hsoh ⊢
  rcases resolve_cases held hlen with ⟨-, hp⟩ | ⟨w, rfl, hstx, hp⟩ | ⟨w, rfl, hstx, hp⟩
  · rw [hp]; rfl
  · rw [hp, streamScan_window (frame_zero_of_startsAtSoh hsoh), if_pos hstx]; rfl
  · rw [hp, streamScan_window (frame_zero_of_startsAtSoh hsoh), if_neg hstx, ← streamScan_evictBytes_append]; rfl

/-- What INGEST at rest emits and holds is `Frames` and `Rest` of the bytes held and the chunk (R108, R122). -/
theorem streamScan_ingest (chunk : List Byte) {bytes : List Byte} (h : restBuffer bytes) :
    streamScan (bytes ++ chunk) = (ingestFrames bytes chunk, ingestBuffer bytes chunk) := by
  induction chunk generalizing bytes with
  | nil => rw [List.append_nil, streamScan_rest h]; rfl
  | cons b bs ih => rw [streamScan_push b bs h, ih (pushBytes_rest bytes b h), ingestFrames_cons]; rfl

theorem exec_ingest_of_scan {s : State} {chunk rest : List Byte} {fs : List Frame} (h : restBuffer s.buf)
    (hscan : streamScan (s.buf ++ chunk) = (fs, rest)) :
    ∃ t, exec (.ingest chunk) s = .next t ∧ t.result = .frames fs ∧ t.buf = rest := by
  rw [streamScan_ingest chunk h] at hscan
  cases hscan
  exact ⟨ingestState chunk s, exec_ingest_rest chunk h, rfl, rfl⟩

theorem exec_ingest_of_scan_empty {s : State} {chunk rest : List Byte} {fs : List Frame} (h : s.buf = [])
    (hscan : streamScan chunk = (fs, rest)) :
    ∃ t, exec (.ingest chunk) s = .next t ∧ t.result = .frames fs ∧ t.buf = rest :=
  exec_ingest_of_scan (h ▸ restBuffer_nil) (by rwa [h])

/-- Settles O29: INGEST is the scan (`streamScan_ingest`, by induction over the chunk). -/
theorem ingestComputesTheStreamFunction : Obligations.IngestComputesTheStreamFunction :=
  fun _ _ h => exec_ingest_of_scan_empty h rfl

/-- Settles O32: the scan waits where fewer than sixteen bytes stand from an SOH. -/
theorem aStartIsHeldUntilItsWindowIsFull : Obligations.AStartIsHeldUntilItsWindowIsFull := by
  intro s xs h hlen
  have hrest : restBuffer (0x01 :: xs) := ⟨Nat.succ_le_succ hlen, .inr rfl⟩
  obtain ⟨t, ht, hframes, hbuf⟩ := exec_ingest_of_scan_empty h (streamScan_rest hrest)
  exact ⟨t, ht, hbuf, hframes⟩

/-- Settles O33: the scan takes the window and goes on behind it. -/
theorem aStartPairCapturesSixteenBytes : Obligations.AStartPairCapturesSixteenBytes := by
  intro s w more h h0 h1
  have hscan : streamScan (w.toList ++ more) = (w :: (streamScan more).1, (streamScan more).2) := by
    rw [streamScan_window h0, if_pos h1]
  obtain ⟨t, ht, htframes, htbuf⟩ := exec_ingest_of_scan_empty h hscan
  obtain ⟨u, hu, huframes, hubuf⟩ := exec_ingest_of_scan_empty h (rfl : streamScan more = _)
  exact ⟨t, u, _, ht, hu, huframes, htframes, htbuf.trans hubuf.symm⟩

/-! ### Noise in front of a frame (R117) -/

/-- No `01 02` stands in the last fifteen bytes. -/
def quietEnd (noise : List Byte) : Prop := hasStartPair (noise.drop (noise.length - 15)) = false

theorem hasStartPair_cons {a : Byte} {l : List Byte} (h : hasStartPair l = true) : hasStartPair (a :: l) = true := by
  cases l with
  | nil => cases h
  | cons b l => rw [hasStartPair, h, Bool.or_true]

theorem hasStartPair_append {gone l : List Byte} (h : hasStartPair l = true) : hasStartPair (gone ++ l) = true := by
  induction gone with
  | nil => exact h
  | cons a gone ih => exact hasStartPair_cons ih

theorem quietEnd_suffix {l noise : List Byte} (hl : l <:+ noise) (h : quietEnd noise) : quietEnd l := by
  have hlen := hl.length_le
  have hend : l.drop (l.length - 15) <:+ noise.drop (noise.length - 15) :=
    List.suffix_of_suffix_length_le ((List.drop_suffix _ _).trans hl) (List.drop_suffix _ _) (by simp; omega)
  obtain ⟨gone, hgone⟩ := hend
  exact Bool.eq_false_iff.2 fun hpair => Bool.eq_false_iff.1 h (hgone ▸ hasStartPair_append hpair)

/-- A window that starts in at most fifteen quiet bytes, the next bytes being `01 02`, is spurious. -/
theorem not_stx_of_quietEnd {noise more left : List Byte} {v : Frame} (hnil : noise ≠ []) (hlen : noise.length ≤ 15)
    (hquiet : quietEnd noise) (hmore : more.head? = some 0x01) (hv : noise ++ more = v.toList ++ left)
    (h0 : v[0] = 0x01) : v[1] ≠ 0x02 := by
  have hv1 : (noise ++ more)[1]? = some v[1] := by
    rw [hv, List.getElem?_append_left (by simp)]
    simp
  have hv0 : (noise ++ more).head? = some 0x01 := by
    rw [hv, List.head?_append, head?_frame, h0]
    rfl
  rw [quietEnd, Nat.sub_eq_zero_of_le hlen, List.drop_zero] at hquiet
  intro h1
  rw [h1] at hv1
  cases noise with
  | nil => exact hnil rfl
  | cons x rest =>
    cases rest with
    | nil =>
      rw [List.head?_eq_getElem?] at hmore
      have hboth : some (0x01 : Byte) = some 0x02 := hmore.symm.trans hv1
      exact absurd hboth (by decide)
    | cons y rest =>
      obtain rfl : x = 0x01 := Option.some.inj hv0
      obtain rfl : y = 0x02 := Option.some.inj hv1
      exact Bool.noConfusion hquiet

/-- The scan of quiet noise and a window `01 02` behind it takes that window last: every window taken before it stands
in the noise (R117). -/
theorem streamScan_noise {w : Frame} (h0 : w[0] = 0x01) (h1 : w[1] = 0x02) (noise : List Byte) (hquiet : quietEnd noise) :
    ∃ fs, streamScan (noise ++ w.toList) = (fs ++ [w], []) := by
  induction hn : noise.length using Nat.strong_induction_on generalizing noise with
  | _ n ih =>
    have hkept : quietEnd (evictBytes noise) := quietEnd_suffix (evictBytes_suffix noise) hquiet
    have hlen := evictBytes_length_le noise
    have hsoh := startsAtSoh_evictBytes noise
    rw [← streamScan_evictBytes_append]
    generalize evictBytes noise = kept at hkept hlen hsoh ⊢
    by_cases hnil : kept = []
    · have hwindow := streamScan_window h0 []
      rw [List.append_nil, if_pos h1] at hwindow
      exact ⟨[], by rw [hnil, List.nil_append, hwindow]; rfl⟩
    · have hpos : 1 ≤ kept.length := List.length_pos_iff.2 hnil
      obtain ⟨v, left, hv⟩ := exists_window (l := kept ++ w.toList) (by simp)
      have hv0 : v[0] = 0x01 := by
        have hhead := (List.head?_append_of_ne_nil kept hnil (l₂ := w.toList)).trans
          (((startsAtSoh_iff kept).1 hsoh).resolve_left hnil)
        rw [hv, List.head?_append, head?_frame] at hhead
        exact Option.some.inj hhead
      rw [hv, streamScan_window hv0]
      split_ifs with hv1
      · have hfull : 16 ≤ kept.length := by
          by_contra hshort
          exact not_stx_of_quietEnd hnil (by omega) hkept (by rw [head?_frame, h0]) hv hv0 hv1
        have hleft : left = kept.drop 16 ++ w.toList := by
          have hdrop := congrArg (List.drop 16) hv
          rw [List.drop_append_of_le_length hfull, List.drop_left' (by simp)] at hdrop
          exact hdrop.symm
        obtain ⟨fs, hfs⟩ := ih (kept.drop 16).length (by simp; omega) (kept.drop 16)
          (quietEnd_suffix (List.drop_suffix _ _) hkept) rfl
        exact ⟨v :: fs, by rw [hleft, hfs]; rfl⟩
      · have hone : v.toList.drop 1 ++ left = kept.drop 1 ++ w.toList := by
          rw [← List.drop_append_of_le_length (by simp), ← hv, List.drop_append_of_le_length hpos]
        rw [hone]
        exact ih (kept.drop 1).length (by simp; omega) (kept.drop 1) (quietEnd_suffix (List.drop_suffix _ _) hkept) rfl

/-- Settles O34: the scan takes the window last (`streamScan_noise`, by induction on the length of the noise). -/
theorem noiseDoesNotHideTheNextFrame : Obligations.NoiseDoesNotHideTheNextFrame := by
  intro s noise w h hquiet h0 h1
  obtain ⟨fs, hscan⟩ := streamScan_noise h0 h1 noise hquiet
  obtain ⟨t, ht, hframes, hbuf⟩ := exec_ingest_of_scan_empty h hscan
  exact ⟨t, fs, ht, hframes, hbuf⟩

end Sys2Proof.Machine
end

section
/-! ## INGEST byte by byte and chunk by chunk (41_frame_synchronizer.md R108, R111, R122) -/

namespace Sys2Proof.Machine

/-! ### INGEST of one chunk behind another -/

theorem ingestBuffer_rest (chunk : List Byte) {bytes : List Byte} (h : restBuffer bytes) :
    restBuffer (ingestBuffer bytes chunk) := by
  induction chunk generalizing bytes with
  | nil => exact h
  | cons b bs ih => exact ih (pushBytes_rest bytes b h)

theorem ingestBuffer_append (bytes a b : List Byte) :
    ingestBuffer bytes (a ++ b) = ingestBuffer (ingestBuffer bytes a) b := by
  induction a generalizing bytes with
  | nil => rfl
  | cons x a ih => exact ih _

theorem ingestEmissions_append (bytes a b : List Byte) :
    ingestEmissions bytes (a ++ b) = ingestEmissions bytes a ++ ingestEmissions (ingestBuffer bytes a) b := by
  induction a generalizing bytes with
  | nil => rfl
  | cons x a ih => exact congrArg (_ :: ·) (ih _)

theorem ingestEmissions_length (bytes chunk : List Byte) : (ingestEmissions bytes chunk).length = chunk.length := by
  induction chunk generalizing bytes with
  | nil => rfl
  | cons b bs ih => exact congrArg (· + 1) (ih _)

theorem ingestFrames_append (bytes a b : List Byte) :
    ingestFrames bytes (a ++ b) = ingestFrames bytes a ++ ingestFrames (ingestBuffer bytes a) b := by
  rw [ingestFrames, ingestEmissions_append, List.flatMap_append]
  rfl

/-- The words of the second chunk enter the pipeline behind those of the first (R173). -/
theorem ingestState_append_pipe (a b : List Byte) (s : State) :
    (ingestState (a ++ b) s).pipe = (ingestState b (ingestState a s)).pipe := by
  have hlen : a.length ≤ (s.pipe ++ (ingestEmissions s.buf a).map outWordOf).length := by
    simp [ingestEmissions_length]
  simp only [ingestState, ingestEmissions_append, List.map_append, List.length_append]
  rw [← List.append_assoc, ← List.drop_drop, List.drop_append_of_le_length hlen]

/-! ### What one PUSH emits, and how many frames a chunk does -/

/-- A PUSH at rest emits exactly where it accepts, and then all that it was given (R102, R104). -/
theorem pushBytes_emitted_cases {bytes : List Byte} (b : Byte) (h : restBuffer bytes) :
    ((pushBytes bytes b).outcome = .accept ∧
      ∃ w : Frame, w.toList = bytes ++ [b] ∧ (pushBytes bytes b).emitted = some w) ∨
    ((pushBytes bytes b).outcome ≠ .accept ∧ (pushBytes bytes b).emitted = none) := by
  unfold pushBytes
  rcases resolve_cases _ (held_of_rest bytes b h) with ⟨-, hp⟩ | ⟨w, hw, -, hp⟩ | ⟨w, -, -, hp⟩
  · right
    rw [hp]
    exact ⟨by simp only; split <;> simp, rfl⟩
  · left
    have hall : evictBytes (bytes ++ [b]) = bytes ++ [b] :=
      (evictBytes_suffix _).eq_of_length_le (by rw [← hw]; simpa using Nat.lt_succ_of_le h.1)
    rw [hp]
    exact ⟨rfl, w, hw.trans hall, rfl⟩
  · right
    rw [hp]
    exact ⟨by simp, rfl⟩

theorem flatMap_toList_length (fs : List Frame) : (fs.flatMap Vector.toList).length = 16 * fs.length := by
  simp [List.length_flatMap, Nat.mul_comm]

theorem ingestFrames_count (chunk : List Byte) {bytes : List Byte} (h : restBuffer bytes) :
    16 * (ingestFrames bytes chunk).length ≤ bytes.length + chunk.length := by
  have hlen := (ingest_sublist chunk h).length_le
  rw [List.length_append, List.length_append, flatMap_toList_length] at hlen
  omega

/-- Settles O27: INGEST at rest is `ingestState`, which takes the first byte's PUSH in front (`ingestState_cons`). -/
theorem ingestIsItsPushesInOrder : Obligations.IngestIsItsPushesInOrder := by
  intro s b bs
  refine ⟨rfl, fun h => ?_⟩
  have hnext : restBuffer (pushState b s).buf := pushBytes_rest s.buf b h
  refine ⟨pushState b s, ingestState bs (pushState b s), (pushBytes s.buf b).emitted.toList,
    ingestFrames (pushState b s).buf bs, pushBeat_rest b s h, exec_ingest_rest bs hnext, rfl,
    fun hacc => ?accepted, fun hacc => ?others, ?cons, ?count, rfl, rfl⟩
  case accepted =>
    rcases pushBytes_emitted_cases b h with ⟨-, w, hw, hemit⟩ | ⟨hne, -⟩
    · exact ⟨w, hw, by rw [hemit]; rfl⟩
    · exact absurd (Result.outcome.inj hacc) hne
  case others =>
    rcases pushBytes_emitted_cases b h with ⟨heq, -⟩ | ⟨-, hemit⟩
    · exact absurd (congrArg Result.outcome heq) hacc
    · rw [hemit]; rfl
  case cons => rw [exec_ingest_rest (b :: bs) h, ingestState_cons]
  case count => simpa [ingestFrames_cons] using ingestFrames_count (b :: bs) h

/-! ### Any cut of the bytes into chunks, with or without idle beats -/

theorem collect_cons {i : Instr} (is : List Instr) {s t : State} (h : exec i s = .next t) :
    collect (i :: is) s = (collect is t).map fun r => (t.result.returned ++ r.1, r.2) := by
  rw [collect, h]

theorem collect_ingest (chunks : List (List Byte)) {s : State} (h : restBuffer s.buf) :
    ∃ t, collect (chunks.map .ingest) s = some (ingestFrames s.buf chunks.flatten, t) ∧
      t.buf = ingestBuffer s.buf chunks.flatten ∧ t.pipe = (ingestState chunks.flatten s).pipe := by
  induction chunks generalizing s with
  | nil => exact ⟨s, rfl, rfl, (List.append_nil _).symm⟩
  | cons c cs ih =>
    obtain ⟨t, ht, hbuf, hpipe⟩ := ih (s := ingestState c s) (ingestBuffer_rest c h)
    refine ⟨t, ?frames, ?buf, ?pipe⟩
    case frames =>
      rw [List.map_cons, collect_cons _ (exec_ingest_rest c h), ht, List.flatten_cons, ingestFrames_append]
      rfl
    case buf => rw [List.flatten_cons, ingestBuffer_append, hbuf]; rfl
    case pipe => rw [List.flatten_cons, ingestState_append_pipe, hpipe]

/-- An idle beat after each chunk leaves the buffer, so it changes neither the frames nor what is held (R172). -/
theorem collect_ingest_idle (chunks : List (List Byte)) {s : State} (h : restBuffer s.buf) :
    ∃ t, collect (chunks.flatMap fun c => [.ingest c, .idle]) s = some (ingestFrames s.buf chunks.flatten, t) ∧
      t.buf = ingestBuffer s.buf chunks.flatten := by
  induction chunks generalizing s with
  | nil => exact ⟨s, rfl, rfl⟩
  | cons c cs ih =>
    obtain ⟨t, ht, hbuf⟩ := ih (s := idleBeat (ingestState c s)) (ingestBuffer_rest c h)
    have hidle : exec .idle (ingestState c s) = .next (idleBeat (ingestState c s)) := rfl
    refine ⟨t, ?frames, ?buf⟩
    case frames =>
      rw [List.flatMap_cons, List.cons_append, List.singleton_append, collect_cons _ (exec_ingest_rest c h),
        collect_cons _ hidle, ht, List.flatten_cons, ingestFrames_append]
      rfl
    case buf => rw [List.flatten_cons, ingestBuffer_append, hbuf]; rfl

/-- Settles O28, by induction over the chunks (`collect_ingest`, `collect_ingest_idle`). -/
theorem chunkingDoesNotAffectTheFrames : Obligations.ChunkingDoesNotAffectTheFrames := by
  intro s chunks h
  obtain ⟨t, ht, htbuf, htpipe⟩ := collect_ingest chunks h
  obtain ⟨v, hv, hvbuf⟩ := collect_ingest_idle chunks h
  exact ⟨_, t, _, v, exec_ingest_rest chunks.flatten h, rfl, ht, htbuf, htpipe, hv, hvbuf⟩

/-! ### The frames emitted -/

theorem ingestFrames_start (chunk : List Byte) {bytes : List Byte} (h : restBuffer bytes) :
    ∀ w ∈ ingestFrames bytes chunk, w[0] = 0x01 ∧ w[1] = 0x02 := by
  induction chunk generalizing bytes with
  | nil => exact fun w hw => absurd hw List.not_mem_nil
  | cons b bs ih =>
    intro w hw
    rw [ingestFrames_cons, List.mem_append] at hw
    rcases hw with hw | hw
    · have hgenuine := genuineWord_pushBytes b h
      rw [Option.mem_toList.1 hw] at hgenuine
      obtain ⟨h0, h1, -⟩ := hgenuine
      exact ⟨h0, h1⟩
    · exact ih (pushBytes_rest bytes b h) w hw

/-- A chunk that completes a window `01 02` with the bytes held has that window emitted, and nothing is held. -/
theorem ingest_completes_window {bytes chunk : List Byte} {w : Frame} (h : restBuffer bytes)
    (hw : w.toList = bytes ++ chunk) (h0 : w[0] = 0x01) (h1 : w[1] = 0x02) :
    ingestFrames bytes chunk = [w] ∧ ingestBuffer bytes chunk = [] := by
  have hscan := streamScan_window h0 []
  rw [List.append_nil, if_pos h1, hw, streamScan_ingest chunk h] at hscan
  exact Prod.mk.inj hscan

/-- Settles O30: the frames and the buffer of `a ++ b` are those of `b` after `a` (`ingestFrames_append`,
`ingestBuffer_append`). -/
theorem ingestedFramesGrowWithTheStream : Obligations.IngestedFramesGrowWithTheStream := by
  intro s a b hbuf
  have h : restBuffer s.buf := hbuf ▸ restBuffer_nil
  have ha : restBuffer (ingestState a s).buf := ingestBuffer_rest a h
  refine ⟨ingestState a s, ingestState (a ++ b) s, ingestState b (ingestState a s), _, _,
    exec_ingest_rest a h, rfl, exec_ingest_rest b ha, rfl, exec_ingest_rest (a ++ b) h,
    congrArg Result.frames (ingestFrames_append s.buf a b), ingestBuffer_append s.buf a b,
    ingestFrames_start a h, ha.1, fun w hw h0 h1 => ?window⟩
  case window =>
    obtain ⟨hframes, hempty⟩ := ingest_completes_window ha hw h0 h1
    exact ⟨hframes, (ingestBuffer_append s.buf a b).trans hempty⟩

end Sys2Proof.Machine
end

section
/-! ## The reference loop, and its agreement with INGEST (41_frame_synchronizer.md R101, R109, R110) -/

namespace Sys2Proof.Machine

/-! ### The four cases of a turn -/

/-- Where the first SOH stands decides a turn of the reference loop (R101). -/
theorem refLoop_cases (l : List Byte) :
    l.length < 16 ∨ (16 ≤ l.length ∧ 0x01 ∉ l) ∨
    (∃ garbage found, l = garbage ++ found ∧ 0x01 ∉ garbage ∧ found.head? = some 0x01 ∧ found.length < 16) ∨
    ∃ (garbage left : List Byte) (w : Frame), l = garbage ++ w.toList ++ left ∧ 0x01 ∉ garbage ∧ w[0] = 0x01 := by
  rcases Nat.lt_or_ge l.length 16 with hshort | hfull
  · exact .inl hshort
  right
  obtain ⟨garbage, hsplit, hne⟩ := evictBytes_split l
  have hg : 0x01 ∉ garbage := fun hmem => hne _ hmem rfl
  rcases evictBytes_cases l with hfound | ⟨w, left, h0, hw⟩
  · rcases (startsAtSoh_iff _).1 (startsAtSoh_evictBytes l) with hnil | hhead
    · rw [hnil, List.append_nil] at hsplit
      exact .inl ⟨hfull, hsplit ▸ hg⟩
    · exact .inr (.inl ⟨garbage, _, hsplit, hg, hhead, hfound⟩)
  · rw [hw, ← List.append_assoc] at hsplit
    exact .inr (.inr ⟨garbage, left, w, hsplit, hg, h0⟩)

/-- As many turns as the list has bytes suffice. -/
theorem refLoop_fuel {n m : Nat} {l : List Byte} (hn : l.length ≤ n) (hm : l.length ≤ m) :
    refLoop n l = refLoop m l := by
  induction n generalizing m l with
  | zero =>
    obtain rfl := List.length_eq_zero_iff.1 (Nat.le_zero.1 hn)
    rw [refLoop_short 0 [] (by simp), refLoop_short m [] (by simp)]
  | succ n ih =>
    rcases refLoop_cases l with hs | ⟨hf, h1⟩ | ⟨garbage, found, rfl, hg, hhead, hs⟩ |
      ⟨garbage, left, w, rfl, hg, h0⟩
    · rw [refLoop_short _ l hs, refLoop_short _ l hs]
    · obtain ⟨m, rfl⟩ : ∃ k, m = k + 1 := ⟨m - 1, by omega⟩
      rw [refLoop_no_soh n l hf h1, refLoop_no_soh m l hf h1]
    · rw [refLoop_wait _ _ _ hg hhead hs, refLoop_wait _ _ _ hg hhead hs]
    · simp only [List.length_append, Vector.length_toList] at hn hm
      obtain ⟨m, rfl⟩ : ∃ k, m = k + 1 := ⟨m - 1, by omega⟩
      have hleft : refLoop n left = refLoop m left := ih (by omega) (by omega)
      have hdropped : refLoop n (garbage ++ (w.toList.drop 1 ++ left)) = refLoop m (garbage ++ (w.toList.drop 1 ++ left)) :=
        ih (by simp; omega) (by simp; omega)
      rw [refLoop_window n _ _ _ hg h0, refLoop_window m _ _ _ hg h0, hleft, hdropped]

/-! ### The whole loop -/

/-- The loop of R101 run to its end. -/
def refRun (l : List Byte) : List Byte × List Frame := refLoop l.length l

theorem exec_ingestref (chunk : List Byte) (s : State) :
    exec (.ingestref chunk) s =
      .next { s with
        refBuf := (refRun (s.refBuf ++ chunk)).1
        outs := []
        result := .frames (refRun (s.refBuf ++ chunk)).2 } := rfl

theorem exec_ingestref_of_run {chunk l left : List Byte} {fs : List Frame} {s : State} (hl : s.refBuf ++ chunk = l)
    (hrun : refRun l = (left, fs)) :
    exec (.ingestref chunk) s = .next { s with refBuf := left, outs := [], result := .frames fs } := by
  rw [exec_ingestref, hl, hrun]

theorem refRun_short {l : List Byte} (h : l.length < 16) : refRun l = (l, []) := refLoop_short _ l h

theorem refRun_no_soh {l : List Byte} (h : 16 ≤ l.length) (h1 : 0x01 ∉ l) : refRun l = ([], []) := by
  rw [refRun, refLoop_fuel (Nat.le_refl _) (Nat.le_succ _), refLoop_no_soh _ l h h1]

theorem refRun_wait {garbage found : List Byte} (hg : 0x01 ∉ garbage) (hhead : found.head? = some 0x01)
    (h : found.length < 16) : refRun (garbage ++ found) = (garbage ++ found, []) := refLoop_wait _ _ _ hg hhead h

theorem refRun_window {garbage : List Byte} {w : Frame} (hg : 0x01 ∉ garbage) (h0 : w[0] = 0x01) (left : List Byte) :
    refRun (garbage ++ w.toList ++ left) =
      if w[1] = 0x02 then ((refRun left).1, w :: (refRun left).2)
      else refRun (garbage ++ (w.toList.drop 1 ++ left)) := by
  have hleft : refLoop (garbage ++ w.toList ++ left).length left = refRun left :=
    refLoop_fuel (by simp; omega) (Nat.le_refl _)
  have hdropped : refLoop (garbage ++ w.toList ++ left).length (garbage ++ (w.toList.drop 1 ++ left)) =
      refRun (garbage ++ (w.toList.drop 1 ++ left)) :=
    refLoop_fuel (by simp) (Nat.le_refl _)
  rw [refRun, refLoop_fuel (Nat.le_refl _) (Nat.le_succ _), refLoop_window _ _ _ _ hg h0, hleft, hdropped]

/-- Induction along the turns of the loop: three ways to end, and a window at the first SOH after which it goes on. -/
theorem refRun_induction {P : List Byte → Prop} (short : ∀ l : List Byte, l.length < 16 → P l)
    (noSoh : ∀ l : List Byte, 16 ≤ l.length → 0x01 ∉ l → P l)
    (wait : ∀ garbage found : List Byte, 0x01 ∉ garbage → found.head? = some 0x01 → found.length < 16 →
      P (garbage ++ found))
    (window : ∀ (garbage left : List Byte) (w : Frame), 0x01 ∉ garbage → w[0] = 0x01 → P left →
      P (garbage ++ (w.toList.drop 1 ++ left)) → P (garbage ++ w.toList ++ left)) (l : List Byte) : P l := by
  induction hn : l.length using Nat.strong_induction_on generalizing l with
  | _ n ih =>
    rcases refLoop_cases l with hs | ⟨hf, h1⟩ | ⟨garbage, found, rfl, hg, hhead, hs⟩ |
      ⟨garbage, left, w, rfl, hg, h0⟩
    · exact short l hs
    · exact noSoh l hf h1
    · exact wait garbage found hg hhead hs
    · simp only [List.length_append, Vector.length_toList] at hn
      exact window garbage left w hg h0 (ih _ (by omega) left rfl) (ih _ (by simp; omega) _ rfl)

/-- Settles O35, turn by turn of the whole loop. -/
theorem referenceLoopTurns : Obligations.ReferenceLoopTurns := by
  rintro s chunk l rfl
  refine ⟨fun hs => ?short, fun hf h1 => ?noSoh, fun garbage found hl hg hhead hs => ?wait,
    fun garbage left w hl hg h0 h1 => ?taken, fun garbage left w hl hg h0 h1 => ?spurious⟩
  case short => exact exec_ingestref_of_run rfl (refRun_short hs)
  case noSoh => exact exec_ingestref_of_run rfl (refRun_no_soh hf h1)
  case wait => exact exec_ingestref_of_run rfl (hl ▸ refRun_wait hg hhead hs)
  case taken =>
    have hrun := refRun_window hg h0 left
    rw [if_pos h1] at hrun
    exact ⟨_, _, exec_ingestref_of_run (List.append_nil left) rfl, rfl, exec_ingestref_of_run hl hrun⟩
  case spurious =>
    have hrun := refRun_window hg h0 left
    rw [if_neg h1] at hrun
    rw [exec_ingestref_of_run hl hrun, exec_ingestref_of_run (List.append_nil _) rfl]

/-- The loop leaves a list on which it stops (R101). -/
theorem refRun_left (l : List Byte) :
    (refRun l).1.length < 16 ∨
      ∃ garbage found, (refRun l).1 = garbage ++ found ∧ 0x01 ∉ garbage ∧ found.length < 16 := by
  induction l using refRun_induction with
  | short l hs => exact .inl (by rwa [refRun_short hs])
  | noSoh l hf h1 => exact .inl (by rw [refRun_no_soh hf h1]; exact Nat.zero_lt_succ _)
  | wait garbage found hg hhead hs => exact .inr ⟨garbage, found, by rw [refRun_wait hg hhead hs], hg, hs⟩
  | window garbage left w hg h0 hleft hdropped =>
    rw [refRun_window hg h0]
    split_ifs
    · exact hleft
    · exact hdropped

/-- Settles O36: INGESTREF is the loop run to its end, which leaves a list on which it stops (`refRun_left`). -/
theorem ingestrefAlwaysCompletes : Obligations.IngestrefAlwaysCompletes :=
  fun s chunk => ⟨_, _, exec_ingestref chunk s, refRun_left (s.refBuf ++ chunk)⟩

/-! ### Agreement with the scan (R109, R110) -/

theorem evictBytes_garbage_append {garbage : List Byte} (hg : 0x01 ∉ garbage) (l : List Byte) :
    evictBytes (garbage ++ l) = evictBytes l :=
  List.dropWhile_append_of_pos fun _ hx => bne_iff_ne.2 (ne_of_mem_of_not_mem hx hg)

theorem streamScan_garbage_append {garbage : List Byte} (hg : 0x01 ∉ garbage) (l : List Byte) :
    streamScan (garbage ++ l) = streamScan l := by
  rw [← streamScan_evictBytes, evictBytes_garbage_append hg, streamScan_evictBytes]

/-- The loop yields what the scan emits, and what it leaves is, without its leading bytes other than SOH, what the scan
holds. -/
theorem streamScan_eq_refRun (l : List Byte) : streamScan l = ((refRun l).2, evictBytes (refRun l).1) := by
  induction l using refRun_induction with
  | short l hs =>
    have hkept := evictBytes_length_le l
    rw [refRun_short hs, streamScan_short (by omega)]
  | noSoh l hf h1 =>
    have hnil : evictBytes l = [] := by
      simpa [evictBytes_nil] using evictBytes_garbage_append h1 []
    rw [refRun_no_soh hf h1, streamScan_short (by simp [hnil]), hnil, evictBytes_nil]
  | wait garbage found hg hhead hs =>
    have hkept := evictBytes_length_le found
    have hall := evictBytes_garbage_append hg found
    rw [refRun_wait hg hhead hs, streamScan_short (by rw [hall]; omega)]
  | window garbage left w hg h0 hleft hdropped =>
    rw [refRun_window hg h0, List.append_assoc, streamScan_garbage_append hg, streamScan_window h0]
    split_ifs
    · rw [hleft]
    · rw [← hdropped, streamScan_garbage_append hg]

/-- What the scan holds is at rest. -/
theorem restBuffer_streamScan (l : List Byte) : restBuffer (streamScan l).2 := by
  have hscan := streamScan_ingest l restBuffer_nil
  rw [List.nil_append] at hscan
  rw [hscan]
  exact ingestBuffer_rest l restBuffer_nil

/-- The scan of a sequence in two parts: the second is scanned behind what the first leaves (R111). -/
theorem streamScan_append (a b : List Byte) :
    streamScan (a ++ b) =
      ((streamScan a).1 ++ (streamScan ((streamScan a).2 ++ b)).1, (streamScan ((streamScan a).2 ++ b)).2) := by
  have hab := streamScan_ingest (a ++ b) restBuffer_nil
  have ha := streamScan_ingest a restBuffer_nil
  rw [List.nil_append] at hab ha
  rw [ha, streamScan_ingest b (ingestBuffer_rest a restBuffer_nil), hab, ingestFrames_append, ingestBuffer_append]

/-- The reference loop, chunk by chunk, yields in total what the scan of all the bytes emits. -/
theorem collect_ingestref (chunks : List (List Byte)) {s : State} (h : restBuffer (evictBytes s.refBuf)) :
    ∃ t, collect (chunks.map .ingestref) s = some ((streamScan (s.refBuf ++ chunks.flatten)).1, t) ∧
      evictBytes t.refBuf = (streamScan (s.refBuf ++ chunks.flatten)).2 := by
  induction chunks generalizing s with
  | nil =>
    have hscan : streamScan s.refBuf = ([], evictBytes s.refBuf) := streamScan_short (Nat.lt_succ_of_le h.1)
    rw [List.flatten_nil, List.append_nil, hscan]
    exact ⟨s, rfl, rfl⟩
  | cons c cs ih =>
    have hc := streamScan_eq_refRun (s.refBuf ++ c)
    have hrest := restBuffer_streamScan (s.refBuf ++ c)
    have hsplit := streamScan_append (s.refBuf ++ c) cs.flatten
    rw [hc] at hrest
    rw [List.append_assoc, hc, streamScan_evictBytes_append] at hsplit
    obtain ⟨t, ht, hbuf⟩ := ih (s := { s with refBuf := (refRun (s.refBuf ++ c)).1, outs := [],
                                              result := .frames (refRun (s.refBuf ++ c)).2 }) hrest
    refine ⟨t, ?frames, ?left⟩
    case frames => rw [List.map_cons, collect_cons _ (exec_ingestref c s), ht, List.flatten_cons, hsplit]; rfl
    case left => rw [List.flatten_cons, hsplit, hbuf]

/-- Settles O37: both are the scan of the whole stream (`collect_ingestref`, by induction over the chunks, and
`streamScan_ingest`). -/
theorem theReferenceLoopAgreesWithIngest : Obligations.TheReferenceLoopAgreesWithIngest := by
  intro s chunks hbuf href
  obtain ⟨t, ht, hleft⟩ := collect_ingestref chunks (s := s) (href ▸ restBuffer_nil)
  rw [href, List.nil_append] at ht hleft
  obtain ⟨u, hu, hframes, hubuf⟩ := exec_ingest_of_scan_empty hbuf (rfl : streamScan chunks.flatten = _)
  exact ⟨_, t, u, ht, hu, hframes, rfl, hubuf.trans hleft.symm⟩

end Sys2Proof.Machine
end

section
/-! ## What the checksum sees (42_bcc_xor_checksum.md R130 to R136) -/

namespace Sys2Proof.Machine

/-! ### The XOR of a list of bytes (R131) -/

/-- The fold of R130, over any list of bytes. -/
def xorAll (l : List Byte) : Byte := l.foldl (fun a b => a ^^^ b) 0

@[simp] theorem xorAll_cons (b : Byte) (l : List Byte) : xorAll (b :: l) = b ^^^ xorAll l := by
  rw [xorAll, List.foldl_cons, BitVec.xor_comm, List.foldl_assoc, xorAll]

theorem xorAll_perm {l m : List Byte} (h : l.Perm m) : xorAll l = xorAll m := h.foldl_eq 0

theorem xorAll_zipWith {l m : List Byte} (h : l.length = m.length) :
    xorAll (List.zipWith (fun a b => a ^^^ b) l m) = xorAll l ^^^ xorAll m := by
  induction l generalizing m with
  | nil => rw [List.length_eq_zero_iff.1 h.symm]; rfl
  | cons a l ih =>
    cases m with
    | nil => cases h
    | cons b m =>
      rw [List.zipWith_cons_cons, xorAll_cons, xorAll_cons, xorAll_cons, ih (Nat.succ.inj h)]
      ac_rfl

/-- Where one byte changes, the XOR changes by that byte's difference. -/
theorem xorAll_set {l : List Byte} {k : Nat} (hk : k < l.length) (b : Byte) :
    xorAll (l.set k b) = xorAll l ^^^ (l[k] ^^^ b) := by
  induction l generalizing k with
  | nil => cases hk
  | cons a l ih =>
    cases k with
    | zero =>
      calc xorAll (b :: l) = (a ^^^ a) ^^^ (b ^^^ xorAll l) := by simp
        _ = (a ^^^ xorAll l) ^^^ (a ^^^ b) := by ac_rfl
        _ = xorAll (a :: l) ^^^ (a ^^^ b) := by rw [xorAll_cons]
    | succ k =>
      rw [List.set_cons_succ, xorAll_cons, xorAll_cons, ih (Nat.lt_of_succ_lt_succ hk), BitVec.xor_assoc,
        List.getElem_cons_succ]

/-! ### The checksum of a frame -/

section
variable (f g : Frame)

theorem exec_bcc (s : State) : exec (.bcc f) s = .next { s with outs := [], result := .checksum (bccOf f) } := rfl

theorem bccOf_eq_xorAll : bccOf f = xorAll (f.toList.take 12) ^^^ 0x03 := rfl

variable {f g}

theorem bccOf_eq_iff_xorAll_eq : bccOf f = bccOf g ↔ xorAll (f.toList.take 12) = xorAll (g.toList.take 12) := by
  rw [bccOf_eq_xorAll, bccOf_eq_xorAll, BitVec.xor_left_inj]

/-- R131: the XOR of two spans is the XOR of their byte differences. -/
theorem bccOf_eq_iff_differences :
    bccOf f = bccOf g ↔ xorAll ((List.zipWith (fun a b => a ^^^ b) f.toList g.toList).take 12) = 0 := by
  have hlen : (f.toList.take 12).length = (g.toList.take 12).length := by simp
  rw [bccOf_eq_iff_xorAll_eq, List.take_zipWith, xorAll_zipWith hlen]
  exact BitVec.xor_eq_zero_iff.symm

/-- R136: the order of the span's bytes does not show. -/
theorem bccOf_eq_of_perm (h : (f.toList.take 12).Perm (g.toList.take 12)) : bccOf f = bccOf g :=
  bccOf_eq_iff_xorAll_eq.2 (xorAll_perm h)

/-- R135: one changed byte of the span always shows. -/
theorem bccOf_ne_bccOf_set {k : Nat} (hk : k < 12) {b : Byte} (hb : b ≠ f[k]) : bccOf f ≠ bccOf (f.set k b) := by
  have hspan : k < (f.toList.take 12).length := by simpa using hk
  have hbyte : (f.toList.take 12)[k] = f[k] := by simp
  rw [Ne, bccOf_eq_iff_xorAll_eq, Vector.toList_set, List.take_set, xorAll_set hspan, hbyte]
  intro h
  have hdiff : 0 = f[k] ^^^ b := (BitVec.xor_right_inj _).1 (BitVec.xor_zero.trans h)
  exact hb (BitVec.xor_eq_zero_iff.1 hdiff.symm).symm

/-- R134: the two start markers and ETX cancel. -/
theorem bccOf_of_start_markers (h0 : f[0] = 0x01) (h1 : f[1] = 0x02) :
    bccOf f = f[2] ^^^ f[3] ^^^ f[4] ^^^ f[5] ^^^ f[6] ^^^ f[7] ^^^ f[8] ^^^ f[9] ^^^ f[10] ^^^ f[11] := by
  rw [bccOf_eq_spanXor, spanXor, h0, h1]
  calc
    _ = ((0x01 : Byte) ^^^ (0x02 : Byte) ^^^ (0x03 : Byte)) ^^^
        (f[2] ^^^ f[3] ^^^ f[4] ^^^ f[5] ^^^ f[6] ^^^ f[7] ^^^ f[8] ^^^ f[9] ^^^ f[10] ^^^ f[11]) := by ac_rfl
    _ = _ := BitVec.zero_xor

end

/-- Settles O47: BCC answers `bccOf`, and R130's fold is the XOR written out (`bccOf_eq_spanXor`). -/
theorem bccIsTheXorOfTheSpan : Obligations.BccIsTheXorOfTheSpan := fun s f => by
  rw [exec_bcc, bccOf_eq_spanXor]

/-- Settles O48: each clause is a law of the XOR of a list of bytes (`xorAll`), taken over the span. -/
theorem bccSeesExactlyTheXorOfTheDifferences : Obligations.BccSeesExactlyTheXorOfTheDifferences := by
  intro s f g
  refine ⟨bccOf f, bccOf g, exec_bcc f s, exec_bcc g s, bccOf_eq_iff_differences, bccOf_eq_of_perm, ?oneByte,
    bccOf_of_start_markers⟩
  case oneByte =>
    rintro k hk b hb rfl
    exact bccOf_ne_bccOf_set hk hb

end Sys2Proof.Machine
end

section
/-! ## The order of the checks, DECODE's answer, and one changed byte (43_frame_validator.md R141 to R159) -/

namespace Sys2Proof.Machine

/-! ### Each check names its own error -/

section
variable (f : Frame)

theorem checkUnits_ne_none_iff : checkUnits f ≠ none ↔ f[10].getLsbD 7 = true ∨ f[11].getLsbD 7 = true := by
  rw [Ne, checkUnits_eq_none_iff, not_and_or, Bool.not_eq_false, Bool.not_eq_false]

theorem checkUnits_eq_ite :
    checkUnits f = if 0x80 ≤ f[10].toNat ∨ 0x80 ≤ f[11].toNat then some .invalidUnits else none := by
  split_ifs with h
  · exact checkUnits_of_high_byte h
  · rw [checkUnits_eq_none_iff, getLsbD_seven_eq_false_iff, getLsbD_seven_eq_false_iff]
    omega

theorem checkBcc_eq_ite : checkBcc f = if f[12] = spanXor f ^^^ 0x03 then none else some .checksumMismatch := by
  rw [checkBcc, bccOf_eq_spanXor]

end

/-- Settles O43: the length, the markers and the sign are tested as the model writes them; the units' bit 7 is the bound
0x80 (`checkUnits_eq_ite`), and the checksum is the XOR written out (`checkBcc_eq_ite`). -/
theorem eachCheckNamesItsError : Obligations.EachCheckNamesItsError := fun s _ f =>
  ⟨rfl, rfl, exec_checkSign_of_eq rfl s, exec_checkUnits_of_eq (checkUnits_eq_ite f) s, checkBcc_eq_ite f ▸ rfl⟩

/-! ### DECODE's answer (R146, R153) -/

theorem exec_decode (bytes : List Byte) (s : State) :
    exec (.decode bytes) s = .next { s with outs := [], result := .decoded (decodeBytes bytes) } := rfl

section
variable (f : Frame)

/-- The checks run in the order markers, sign, units, checksum; the first to fail names its own error, and a frame that passes
them all is read (R146, R153). -/
theorem decodeBytes_toList_eq_ite :
    decodeBytes f.toList =
      if checkMarkers f ≠ none then .error .invalidMarkers
      else if checkSign f ≠ none then .error .invalidSign
      else if checkUnits f ≠ none then .error .invalidUnits
      else if checkBcc f ≠ none then .error .checksumMismatch
      else .reading (readingOf f) := by
  rw [decodeBytes_toList]
  unfold firstError checkMarkers checkSign checkUnits checkBcc
  split_ifs <;> simp_all

theorem signChars_eq_ite : signChars f = if f[3] = 0x2D then [0x2D] else [] := by
  simp only [signChars, negOf, beq_iff_eq]
  rfl

theorem isPositiveOf_eq_ite : isPositiveOf f = if f[3] = 0x2D then false else true := by
  split_ifs with h
  · exact Bool.eq_false_iff.2 fun hpos => (isPositiveOf_iff f).1 hpos h
  · exact (isPositiveOf_iff f).2 h

/-- The weight and the sign of a Reading, by the value of the sign byte (R149, R150). -/
theorem readingOf_eq_ite :
    readingOf f =
      { status := statusOf f
        weight := (if f[3] = 0x2D then [0x2D] else []) ++ (digitsOf f).toList
        units := unitsOf f
        status2 := status2Of f
        isPositive := if f[3] = 0x2D then false else true } := by
  rw [readingOf, weightOf, signChars_eq_ite, isPositiveOf_eq_ite]

end

/-- Settles O44: off sixteen bytes the length fails, and on a frame each branch of `decodeBytes_toList_eq_ite` is one of the
statement, the test of each check being the one of its lemma. -/
theorem decodeAnswersTheFirstFailingCheck : Obligations.DecodeAnswersTheFirstFailingCheck := by
  intro s
  refine ⟨fun bytes h => ?length, fun f => ?frame⟩
  case length => rw [exec_decode, decodeBytes_of_length_ne bytes h]
  case frame =>
    rw [exec_decode, decodeBytes_toList_eq_ite, readingOf_eq_ite]
    simp only [checkUnits_ne_none_iff, Ne, checkMarkers_eq_none_iff, checkSign_eq_none_iff, checkBcc_eq_none_iff]
    rfl

/-! ### MalformedLength is never output (R159) -/

theorem mem_eventsOf (e : Event) (ws : List OutWord) : e ∈ eventsOf ws ↔ .event e ∈ ws := by
  induction ws with
  | nil => simp [eventsOf]
  | cons w ws ih => cases w <;> simp [eventsOf, ih]

/-- A frame has sixteen bytes, so no check of it that fails is the length (R159). -/
theorem decodeBytes_ne_malformedLength (f : Frame) : decodeBytes f.toList ≠ .error .malformedLength := by
  rw [decodeBytes_toList_eq_ite]
  split_ifs <;> simp

/-- Settles O40: the step keeps the output words genuine (`step_inv`), so an event's result is DECODE of its frame, which is
never MalformedLength (`decodeBytes_ne_malformedLength`). -/
theorem malformedLengthIsNeverOutput : Obligations.MalformedLengthIsNeverOutput := by
  intro s t hinv hs e he
  obtain ⟨-, -, hresult⟩ : genuineWord (.event e) := (step_inv hinv hs).outs _ ((mem_eventsOf e t.outs).1 he)
  exact ⟨hresult ▸ decodeBytes_ne_malformedLength e.frame, hresult⟩

/-! ### One changed byte: what it does to each check (R157) -/

section
variable {f : Frame} {k : Nat} (hk : k < 16) {b : Byte}
include hk

theorem checkMarkers_set_ne_none_iff (h : checkMarkers f = none) (hb : b ≠ f[k]) :
    checkMarkers (f.set k b) ≠ none ↔ k = 0 ∨ k = 1 ∨ k = 13 ∨ k = 14 := by
  obtain ⟨h0, h1, h13, h14⟩ := (checkMarkers_eq_none_iff f).1 h
  rw [Ne, checkMarkers_eq_none_iff]
  constructor
  · contrapose!
    rintro ⟨n0, n1, n13, n14⟩
    simp [Vector.getElem_set_ne, n0, n1, n13, n14, h0, h1, h13, h14]
  · rintro (rfl | rfl | rfl | rfl) ⟨m0, m1, m13, m14⟩
    · exact hb (by rw [h0, ← m0, Vector.getElem_set_self])
    · exact hb (by rw [h1, ← m1, Vector.getElem_set_self])
    · exact hb (by rw [h13, ← m13, Vector.getElem_set_self])
    · exact hb (by rw [h14, ← m14, Vector.getElem_set_self])

theorem checkSign_set_ne_none_iff (h : checkSign f = none) :
    checkSign (f.set k b) ≠ none ↔ k = 3 ∧ b ≠ 0x2D ∧ b ≠ 0x20 := by
  rw [Ne, checkSign_eq_none_iff, Vector.getElem_set]
  split_ifs with h3
  · simp [h3]
  · exact iff_of_false (not_not.2 ((checkSign_eq_none_iff f).1 h)) fun hk3 => h3 hk3.1

theorem checkUnits_set_ne_none_iff (h : checkUnits f = none) :
    checkUnits (f.set k b) ≠ none ↔ (k = 10 ∨ k = 11) ∧ 0x80 ≤ b.toNat := by
  obtain ⟨h10, h11⟩ := (checkUnits_eq_none_iff f).1 h
  rw [checkUnits_ne_none_iff, ← getLsbD_seven_iff, Vector.getElem_set, Vector.getElem_set]
  split_ifs with n10 n11 n11
  · omega
  · simp only [h11, n10, true_or, true_and, Bool.false_eq_true, or_false]
  · simp only [h10, n11, or_true, true_and, Bool.false_eq_true, false_or]
  · simp only [h10, h11, n10, n11, or_self, false_and, Bool.false_eq_true]

theorem bccOf_set_of_le (h : 12 ≤ k) : bccOf (f.set k b) = bccOf f := by
  rw [bccOf_eq_xorAll, bccOf_eq_xorAll, Vector.toList_set, List.take_set_of_le h]

/-- A change in the span changes the checksum (R135), a change of byte 12 what it is compared with, and no other byte is
read. -/
theorem checkBcc_set_ne_none_iff (h : checkBcc f = none) (hb : b ≠ f[k]) :
    checkBcc (f.set k b) ≠ none ↔ k ≤ 12 := by
  have hbcc : f[12] = bccOf f := by rwa [bccOf_eq_spanXor, ← checkBcc_eq_none_iff]
  rw [Ne, checkBcc_eq_none_iff, ← bccOf_eq_spanXor]
  rcases Nat.lt_trichotomy k 12 with hlt | rfl | hgt
  · rw [Vector.getElem_set_ne (h := hlt.ne), hbcc]
    exact iff_of_true (bccOf_ne_bccOf_set hlt hb) hlt.le
  · rw [Vector.getElem_set_self, bccOf_set_of_le hk le_rfl, ← hbcc]
    exact iff_of_true hb le_rfl
  · rw [Vector.getElem_set_ne (h := hgt.ne'), bccOf_set_of_le hk hgt.le]
    exact iff_of_false (not_not.2 hbcc) hgt.not_ge

/-- R157's table: the first check that the change makes fail, or the Reading of the changed frame. -/
theorem decodeBytes_set_of_valid (h : validFrame f) (hb : b ≠ f[k]) :
    decodeBytes (f.set k b).toList =
      if k = 0 ∨ k = 1 ∨ k = 13 ∨ k = 14 then .error .invalidMarkers
      else if k = 3 ∧ b ≠ 0x2D ∧ b ≠ 0x20 then .error .invalidSign
      else if (k = 10 ∨ k = 11) ∧ 0x80 ≤ b.toNat then .error .invalidUnits
      else if k ≤ 12 then .error .checksumMismatch
      else .reading (readingOf (f.set k b)) := by
  obtain ⟨hmarkers, hsign, hunits, hbcc⟩ := h
  simp only [decodeBytes_toList_eq_ite, checkMarkers_set_ne_none_iff hk ((checkMarkers_eq_none_iff f).2 hmarkers) hb,
    checkSign_set_ne_none_iff hk ((checkSign_eq_none_iff f).2 hsign),
    checkUnits_set_ne_none_iff hk ((checkUnits_eq_none_iff f).2 hunits),
    checkBcc_set_ne_none_iff hk ((checkBcc_eq_none_iff f).2 hbcc) hb]

end

/-- Byte 15 is read by `status2` alone (R148). -/
theorem readingOf_set_status2 (f : Frame) (b : Byte) :
    readingOf (f.set 15 b) = { readingOf f with status2 := (readingOf (f.set 15 b)).status2 } := by
  simp [readingOf, statusOf, weightOf, signChars, negOf, digitsOf, unitsOf, isPositiveOf]

/-- Settles O46: at offset 15 DECODE answers both frames' Readings, which agree off status2; elsewhere it answers the first
check that the change makes fail (`decodeBytes_set_of_valid`). -/
theorem oneChangedByteIsClassified : Obligations.OneChangedByteIsClassified := by
  intro s f k b hvalid hb
  have hdecode := decodeBytes_set_of_valid k.isLt hvalid hb
  split_ifs with h15 hmarkers hsign hunits
  · subst h15
    exact ⟨_, _, (exec_decode_eq_reading_iff f s _).2 ⟨hvalid, rfl⟩, by rw [exec_decode, hdecode]; rfl,
      readingOf_set_status2 f b⟩
  · rw [exec_decode, hdecode, if_pos (by omega)]
  · rw [exec_decode, hdecode, if_neg (by omega), if_pos ⟨by omega, hsign.2⟩]
  · rw [exec_decode, hdecode, if_neg (by omega), if_neg (by omega), if_pos (by omega)]
  · have hsign' : ¬((k : Nat) = 3 ∧ b ≠ 0x2D ∧ b ≠ 0x20) := fun h => hsign ⟨Fin.ext h.1, h.2⟩
    rw [exec_decode, hdecode, if_neg (by omega), if_neg hsign', if_neg (by omega), if_pos (by omega)]

end Sys2Proof.Machine
end

section
/-! ## One step, and the beats it can take (44_core_top.md R170 to R172, R178, R181) -/

namespace Sys2Proof.Machine

@[simp] theorem State.consume_input (s : State) : s.consume.input = s.input.tail := rfl

section
variable {s : State}

theorem step_of_decode {c : Code} {rest : List Code} {i : Instr} (hin : s.input = c :: rest) (hdec : decode c = .ok i) :
    step s = exec i { s with input := rest } := by
  simp only [step, hin, hdec]

theorem step_of_no_input (h : s.input = []) : step s = exec .idle s := by
  simp only [step, h]

theorem step_beat {w : BitVec 10} {rest : List Code} (hin : s.input = .beat w :: rest) :
    step s = exec (decodeBeat w) s.consume := by
  rw [step_of_decode hin rfl, State.consume, hin, List.tail_cons]

theorem exec_idle (s : State) : exec .idle s = .next (idleBeat s) := rfl

/-- A beat's operation completes at rest: RESET and IDLE always do, a PUSH does by the invariant (R102, R181). -/
theorem exec_decodeBeat_completes (w : BitVec 10) (h : restBuffer s.buf) : ∃ t, exec (decodeBeat w) s = .next t := by
  rcases decodeBeat_cases w with hw | ⟨b, hw⟩ | hw
  · rw [hw]; exact ⟨_, rfl⟩
  · rw [hw]; exact ⟨_, pushBeat_rest b s h⟩
  · rw [hw]; exact ⟨_, rfl⟩

/-- INGEST off rest is refused at its first byte (R178). -/
theorem ingestBeats_off_rest (b : Byte) (bs : List Byte) (h : ¬ restBuffer s.buf) :
    ingestBeats (b :: bs) s = .refused .notAtRest := by
  simp only [ingestBeats, pushBeat_off_rest b s h]

theorem exec_corestep (rst inValid : Bool) (b : Byte) (s : State) :
    exec (.corestep rst inValid b) s =
      if rst = true then exec .reset s else if inValid = true then exec (.push b) s else exec .idle s := rfl

end

/-- Settles O6: the decoder's answer is the instruction run. -/
theorem stepRunsTheDecodedInstruction : Obligations.StepRunsTheDecodedInstruction :=
  fun _ _ _ _ hin hdec _ => step_of_decode hin hdec

/-- Settles O7: the idle beat leaves the buffer, the reference list and the input. -/
theorem stepWithoutInputIsAnIdleBeat : Obligations.StepWithoutInputIsAnIdleBeat := fun s h =>
  have hstep := step_of_no_input h
  ⟨hstep, idleBeat s, hstep.trans (exec_idle s), rfl, rfl, h⟩

/-- Settles O8: each of the four things a step can do (`step_cases`) leaves the input that `State.consume` leaves. -/
theorem stepConsumesOneWord : Obligations.StepConsumesOneWord := by
  intro s t h
  rcases step_cases h with rfl | ⟨-, b, rfl⟩ | rfl | ⟨r, rfl⟩ <;> simp

/-- Settles O9: the beat completes by the rest invariant (`exec_decodeBeat_completes`), and a step keeps the whole invariant
(`step_inv`). -/
theorem everyBeatCompletes : Obligations.EveryBeatCompletes := by
  intro s hinv hin
  have hnext : ∃ t, step s = .next t := by
    rcases hin with hnone | ⟨w, rest, hbeat⟩
    · exact ⟨_, step_of_no_input hnone⟩
    · rw [step_beat hbeat]
      exact exec_decodeBeat_completes w hinv.rest
  obtain ⟨t, ht⟩ := hnext
  exact ⟨t, ht, step_inv hinv ht⟩

/-- Settles O13: the idle beat, field by field. -/
theorem idleChangesNothing : Obligations.IdleChangesNothing := fun s => exec_idle s

/-- Settles O16: all three come to one PUSH beat off rest. -/
theorem pushesOffRestAreRefused : Obligations.PushesOffRestAreRefused := by
  intro s b bs h
  have hpush : exec (.push b) s = .refused .notAtRest := pushBeat_off_rest b s h
  exact ⟨hpush, hpush, ingestBeats_off_rest b bs h⟩

/-- Settles O17: the selection is CORESTEP's definition, and each of the three beats keeps the rest invariant. -/
theorem corestepSelectsResetPushOrIdle : Obligations.CorestepSelectsResetPushOrIdle := by
  intro s rst inValid b
  refine ⟨exec_corestep rst inValid b s, fun hrest => ?_⟩
  rw [exec_corestep]
  split_ifs
  · exact ⟨resetBeat s, rfl, restBuffer_nil, rfl, rfl, by simp⟩
  · exact ⟨pushState b s, pushBeat_rest b s hrest, pushBytes_rest s.buf b hrest, rfl, rfl, by simp⟩
  · exact ⟨idleBeat s, rfl, hrest, rfl, rfl, by simp⟩

end Sys2Proof.Machine
end

section
/-! ## The event of an accepting PUSH, through the OUT_LATENCY pipeline (44_core_top.md R170, R173) -/

namespace Sys2Proof.Machine

/-- The event of a candidate frame: the frame with its own decode result (R170). -/
def candidateEvent (w : Frame) : Event := { frame := w, result := decodeBytes w.toList }

theorem outWordOf_some (w : Frame) : outWordOf (some w) = .event (candidateEvent w) := rfl

/-- The beat of a PUSH that accepts `w`: nothing is held any more and the event of `w` enters the pipeline. -/
def acceptBeat (w : Frame) (s : State) : State := decided { buf := [], outcome := .accept, emitted := some w } s

section
variable (w : Frame) (s : State)

@[simp] theorem acceptBeat_buf : (acceptBeat w s).buf = [] := rfl
@[simp] theorem acceptBeat_pipe : (acceptBeat w s).pipe = (s.pipe ++ [OutWord.event (candidateEvent w)]).drop 1 := rfl
@[simp] theorem acceptBeat_outs : (acceptBeat w s).outs = (s.pipe ++ [OutWord.event (candidateEvent w)]).take 1 := rfl
@[simp] theorem acceptBeat_draws : (acceptBeat w s).draws = s.draws + 1 := rfl

end

/-- Sixteen bytes of which all but the last are held at rest start with SOH (R22). -/
theorem frame_zero_of_rest {bytes : List Byte} {b : Byte} {w : Frame} (h : restBuffer bytes) (hw : w.toList = bytes ++ [b]) :
    w[0] = 0x01 := by
  obtain ⟨-, hsoh⟩ := h
  have hlen : bytes.length = 15 := by simpa using (congrArg List.length hw).symm
  have hhead : bytes.head? = some 0x01 := hsoh.resolve_left (by omega)
  have hfirst : w.toList.head? = some 0x01 := by rw [hw, List.head?_append, hhead, Option.some_or]
  rwa [head?_frame, Option.some.injEq] at hfirst

/-- A PUSH that completes a window `01 02` accepts it (R102, R104). -/
theorem exec_push_accept {s : State} {b : Byte} {w : Frame} (hrest : restBuffer s.buf) (hw : w.toList = s.buf ++ [b])
    (hstx : w[1] = 0x02) : exec (.push b) s = .next (acceptBeat w s) := by
  have hheld : evictBytes w.toList = w.toList := by
    simpa using evictBytes_frame_append (frame_zero_of_rest hrest hw) []
  rw [exec_push_rest b hrest, ← hw, hheld, resolve_of_stx hstx]
  rfl

theorem runAll_cons {i : Instr} (is : List Instr) {s t : State} (h : exec i s = .next t) :
    runAll (i :: is) s = runAll is t := by
  rw [runAll, h]

/-- A word with `front` in front of it in the pipeline is the one presented by the idle beat after those of `front`, and no
idle beat changes what is held (R172, R173). -/
theorem runAll_idle_presents {front back : List OutWord} {x : OutWord} {s : State} (h : s.pipe = front ++ x :: back) :
    ∃ u, runAll (List.replicate (front.length + 1) .idle) s = .next u ∧ u.outs = [x] ∧ u.buf = s.buf := by
  induction front generalizing back s with
  | nil => exact ⟨idleBeat s, rfl, by simp [h], rfl⟩
  | cons y front ih =>
    have hpipe : (idleBeat s).pipe = front ++ x :: (back ++ [.noEvent]) := by simp [h]
    obtain ⟨u, hu, houts, hbuf⟩ := ih hpipe
    exact ⟨u, (runAll_cons _ (exec_idle s)).trans hu, houts, hbuf⟩

/-- Settles O18: with an empty pipeline the PUSH presents its event itself; otherwise the event stands last in the pipeline,
and the idle beats bring it out (`runAll_idle_presents`). -/
theorem anEventIsPresentedAfterOutLatency : Obligations.AnEventIsPresentedAfterOutLatency := by
  intro s b w hrest hw hstx
  have hpush := exec_push_accept hrest hw hstx
  cases hpipe : s.pipe with
  | nil => exact ⟨acceptBeat w s, acceptBeat w s, hpush, rfl, by rw [acceptBeat_outs, hpipe]; rfl, rfl⟩
  | cons y front =>
    have hlast : (acceptBeat w s).pipe = front ++ [.event (candidateEvent w)] := by rw [acceptBeat_pipe, hpipe]; rfl
    obtain ⟨u, hu, houts, hbuf⟩ := runAll_idle_presents hlast
    exact ⟨acceptBeat w s, u, hpush, hu, houts, hbuf⟩

end Sys2Proof.Machine
end

section
/-! ## The trace since a reset (44_core_top.md R173, R179; 41_frame_synchronizer.md R122) -/

namespace Sys2Proof.Machine

/-! ### Events of output words -/

theorem eventsOf_append (ws xs : List OutWord) : eventsOf (ws ++ xs) = eventsOf ws ++ eventsOf xs := by
  induction ws with
  | nil => rfl
  | cons w ws ih => cases w <;> simp [eventsOf, ih]

theorem eventsOf_noEvent : eventsOf [.noEvent] = [] := rfl

theorem eventsOf_replicate_noEvent (n : Nat) : eventsOf (List.replicate n .noEvent) = [] := by
  induction n with
  | zero => rfl
  | succ n ih => exact ih

theorem eventsOf_outWordOf (emitted : Option Frame) :
    eventsOf [outWordOf emitted] = emitted.toList.map candidateEvent := by
  cases emitted <;> rfl

/-- What a beat presents and what it leaves in the pipeline are the events that were there and its own (R173). -/
theorem eventsOf_shifted (pipe : List OutWord) (x : OutWord) :
    eventsOf ((pipe ++ [x]).take 1) ++ eventsOf ((pipe ++ [x]).drop 1) = eventsOf pipe ++ eventsOf [x] := by
  rw [← eventsOf_append, List.take_append_drop, eventsOf_append]

/-! ### Steps of a trace -/

theorem traceOf_succ (k : Nat) {s t : State} (h : step s = .next t) :
    traceOf (k + 1) s = (eventsOf t.outs ++ (traceOf k t).1, (traceOf k t).2) := by
  rw [traceOf, h]

/-- Where nothing is presented, `n` steps let out the first `n` words of the pipeline and leave the buffer (R172, R173). -/
theorem traceOf_drain (n : Nat) {s : State} (hin : s.input = []) :
    (traceOf n s).1 = eventsOf (s.pipe.take n) ∧ (traceOf n s).2.buf = s.buf := by
  induction n generalizing s with
  | zero => exact ⟨rfl, rfl⟩
  | succ n ih =>
    obtain ⟨hevents, hbuf⟩ := ih (s := idleBeat s) hin
    have hshift := take_shifted s.pipe [] .noEvent n
    rw [List.append_nil] at hshift
    rw [traceOf_succ n ((step_of_no_input hin).trans (exec_idle s))]
    refine ⟨?_, hbuf⟩
    calc eventsOf (idleBeat s).outs ++ (traceOf n (idleBeat s)).1
        = eventsOf ((s.pipe ++ [OutWord.noEvent]).take (n + 1)) := by
          rw [hevents, ← eventsOf_append, idleBeat_outs, idleBeat_pipe, hshift]
      _ = eventsOf (s.pipe.take (n + 1)) := by
          rw [List.take_append, eventsOf_append]
          cases n + 1 - s.pipe.length <;> simp [eventsOf]

/-- The beat of a word with `rst = 0`: a PUSH of its byte, or idle (R71). -/
theorem decodeBeat_of_not_rst {w : BitVec 10} (h : w.getLsbD 9 = false) :
    decodeBeat w = if w.getLsbD 8 then .push (w.extractLsb' 0 8) else .idle := by
  rw [decodeBeat, h, if_neg Bool.false_ne_true]

theorem pushedBytes_cons (w : BitVec 10) (ws : List (BitVec 10)) :
    pushedBytes (w :: ws) = pushedBytes [w] ++ pushedBytes ws := by
  rw [pushedBytes, pushedBytes]
  split_ifs <;> rfl

/-- A step at rest on a word with `rst = 0` holds what INGEST of its byte, if it has one, holds; what it presents and what is on
the way are the events on the way before and that byte's. -/
theorem step_data_beat {s : State} {w : BitVec 10} {rest : List Code} (hrest : restBuffer s.buf)
    (hin : s.input = .beat w :: rest) (hrst : w.getLsbD 9 = false) :
    ∃ t, step s = .next t ∧ t.buf = ingestBuffer s.buf (pushedBytes [w]) ∧
      eventsOf t.outs ++ eventsOf t.pipe =
        eventsOf s.pipe ++ (ingestFrames s.buf (pushedBytes [w])).map candidateEvent := by
  rw [step_beat hin, decodeBeat_of_not_rst hrst, pushedBytes]
  split_ifs
  · refine ⟨_, pushBeat_rest _ s.consume hrest, rfl, ?_⟩
    rw [pushState_outs, pushState_pipe, eventsOf_shifted, eventsOf_outWordOf, ingestFrames_cons]
    exact congrArg _ (congrArg _ (List.append_nil _).symm)
  · refine ⟨_, exec_idle s.consume, rfl, ?_⟩
    rw [idleBeat_outs, idleBeat_pipe, eventsOf_shifted, eventsOf_noEvent]
    rfl

/-- At rest, beats with `rst = 0` and then as many steps as the pipeline is long let out the events of the pipeline and those of
the bytes pushed, and hold what INGEST of these bytes holds. -/
theorem traceOf_beats (ws : List (BitVec 10)) {s : State} (hrest : restBuffer s.buf) (hin : s.input = ws.map .beat)
    (hrst : ∀ w ∈ ws, w.getLsbD 9 = false) :
    (traceOf (ws.length + s.pipe.length) s).1 =
        eventsOf s.pipe ++ (ingestFrames s.buf (pushedBytes ws)).map candidateEvent ∧
      (traceOf (ws.length + s.pipe.length) s).2.buf = ingestBuffer s.buf (pushedBytes ws) := by
  induction ws generalizing s with
  | nil =>
    obtain ⟨hevents, hbuf⟩ := traceOf_drain s.pipe.length hin
    rw [List.take_length] at hevents
    rw [List.length_nil, Nat.zero_add]
    exact ⟨hevents.trans (List.append_nil _).symm, hbuf⟩
  | cons w ws ih =>
    obtain ⟨hw, hws⟩ := List.forall_mem_cons.1 hrst
    obtain ⟨t, hstep, htbuf, htevents⟩ := step_data_beat hrest hin hw
    have htin : t.input = ws.map .beat := by rw [stepConsumesOneWord s t hstep, hin]; rfl
    obtain ⟨hevents, hbuf⟩ := ih (htbuf ▸ ingestBuffer_rest _ hrest) htin hws
    rw [step_pipe_length hstep, htbuf] at hevents hbuf
    rw [List.length_cons, Nat.add_right_comm, traceOf_succ _ hstep, pushedBytes_cons, ingestFrames_append,
      ingestBuffer_append, List.map_append, ← List.append_assoc, ← htevents, List.append_assoc]
    exact ⟨congrArg _ hevents, hbuf⟩

/-- A step on a word with `rst = 1` is the RESET beat, whatever the state (R210, R212). -/
theorem step_reset_beat {s : State} {inValid : Bool} {b : Byte} {rest : List Code}
    (hin : s.input = .beat (beatWord true inValid b) :: rest) : step s = .next (resetBeat s.consume) := by
  rw [step_beat hin, decodeBeat_beatWord]
  rfl

/-- Settles O41: after the reset beat the buffer is empty and the pipeline holds no event, so what comes out is what the pushed
bytes cause (`traceOf_beats`, by induction over the beats), and that is their scan (`streamScan_ingest`). -/
theorem theTraceSinceAResetIsTheStreamFunction : Obligations.TheTraceSinceAResetIsTheStreamFunction := by
  intro s inValid b ws hin hrst
  have hin' : (resetBeat s.consume).input = ws.map .beat := by
    rw [resetBeat_input, State.consume_input, hin]; rfl
  obtain ⟨hevents, hbuf⟩ := traceOf_beats ws (s := resetBeat s.consume) restBuffer_nil hin' hrst
  have hlen : (resetBeat s.consume).pipe.length = s.pipe.length := by simp
  have hscan := streamScan_ingest (pushedBytes ws) restBuffer_nil
  obtain ⟨hframes, hheld⟩ := Prod.mk.inj hscan
  rw [List.nil_append] at hframes hheld
  rw [hlen, resetBeat_buf] at hevents hbuf
  rw [resetBeat_pipe, eventsOf_replicate_noEvent, List.nil_append] at hevents
  rw [Nat.add_assoc, Nat.add_comm 1, traceOf_succ _ (step_reset_beat hin), hframes, hheld]
  exact ⟨hevents, hbuf⟩

end Sys2Proof.Machine
end

section
/-! ## The output ports (44_core_top.md R171 to R175; 30_encoding.md R72 to R74) -/

namespace Sys2Proof.Machine

/-! ### The ports that every output word fixes -/

section
variable (free : Ports)

theorem portsOf_inReady (w : OutWord) : (portsOf free w).inReady = true := by
  cases w with
  | noEvent => rfl
  | event e => rw [portsOf]; split <;> rfl

theorem portsOf_noEvent_outValid : (portsOf free .noEvent).outValid = false := rfl

theorem portsOf_event_outValid (e : Event) : (portsOf free (.event e)).outValid = true := by
  rw [portsOf]; split <;> rfl

theorem portsOf_event_outFrame (e : Event) : (portsOf free (.event e)).outFrame = e.frame := by
  rw [portsOf]; split <;> rfl

end

section
variable (n : Nat) (ws : List OutWord)

theorem portsFrom_inReady : (portsFrom n ws).map Ports.inReady = ws.map (fun _ => true) := by
  induction ws generalizing n with
  | nil => rfl
  | cons w ws ih => rw [portsFrom, List.map_cons, List.map_cons, ih, portsOf_inReady]

theorem portsFrom_outValid :
    (portsFrom n ws).map Ports.outValid = ws.map (fun w => !(eventsOf [w]).isEmpty) := by
  induction ws generalizing n with
  | nil => rfl
  | cons w ws ih =>
    rw [portsFrom, List.map_cons, List.map_cons, ih]
    cases w with
    | noEvent => rfl
    | event e => rw [portsOf_event_outValid]; rfl

theorem portsFrom_outFrame :
    ((portsFrom n ws).filter Ports.outValid).map Ports.outFrame = (eventsOf ws).map Event.frame := by
  induction ws generalizing n with
  | nil => rfl
  | cons w ws ih =>
    rw [portsFrom]
    cases w with
    | noEvent => rw [List.filter_cons_of_neg (by simp [portsOf_noEvent_outValid]), ih, eventsOf]
    | event e =>
      rw [List.filter_cons_of_pos (portsOf_event_outValid _ e), List.map_cons, ih, portsOf_event_outFrame, eventsOf,
        List.map_cons]

end

/-- Settles O59: three laws of the ports over any output words, from any beat on. -/
theorem outValidMarksExactlyTheEvents : Obligations.OutValidMarksExactlyTheEvents :=
  fun _ => ⟨portsFrom_inReady _ _, portsFrom_outValid _ _, portsFrom_outFrame _ _⟩

/-! ### The ports of an event -/

/-- With an empty pipeline the beat of an accepting PUSH shows its own event (R173). -/
theorem acceptBeat_ports {s : State} (w : Frame) (h : s.pipe = []) :
    (acceptBeat w s).ports = [portsOf (Config.freePorts s.draws) (.event (candidateEvent w))] := by
  have houts : (acceptBeat w s).outs = [.event (candidateEvent w)] := by rw [acceptBeat_outs, h]; rfl
  rw [State.ports, houts, acceptBeat_draws]
  rfl

theorem negOf_iff (f : Frame) : negOf f = true ↔ f[3] = 0x2D := beq_iff_eq

theorem isPositiveOf_eq_not_negOf (f : Frame) : isPositiveOf f = !negOf f := rfl

theorem errCodeOf_range {e : DecodeError} (h : e ≠ .malformedLength) :
    2 ≤ (errCodeOf (some e)).toNat ∧ (errCodeOf (some e)).toNat ≤ 5 := by
  cases e with
  | malformedLength => exact absurd rfl h
  | invalidMarkers | invalidSign | invalidUnits | checksumMismatch => decide

section
variable (free : Ports) {w : Frame}

/-- The ports of a frame that is read (R74, R175). -/
theorem portsOf_reading {r : Reading} (h : decodeBytes w.toList = .reading r) :
    portsOf free (.event (candidateEvent w)) =
      { inReady := true
        outValid := true
        outFrame := w
        outOk := true
        outErr := 0
        rdStatus := statusCode r.status
        rdStatus2 := status2Code r.status2
        rdNeg := negOf w
        rdIsPositive := r.isPositive
        rdDigits := digitsOf w
        rdUnits := unitsOf w } := by
  rw [candidateEvent, h]
  rfl

/-- The ports of a frame with an error: the `rd_` ports stay free (R175). -/
theorem portsOf_error {e : DecodeError} (h : decodeBytes w.toList = .error e) :
    portsOf free (.event (candidateEvent w)) =
      { free with inReady := true, outValid := true, outFrame := w, outOk := false, outErr := errCodeOf (some e) } := by
  rw [candidateEvent, h]
  rfl

end

/-- Settles O58: the beat shows the event of `w` (`acceptBeat_ports`); a Reading is that of `w`
(`decodeBytes_eq_reading_iff`), and an error is never MalformedLength (`decodeBytes_ne_malformedLength`). -/
theorem portsShowTheEventOfAPush : Obligations.PortsShowTheEventOfAPush := by
  intro s b w hrest hpipe hw hstx
  refine ⟨acceptBeat w s, _, exec_push_accept hrest hw hstx, acceptBeat_ports w hpipe, portsOf_inReady _ _,
    portsOf_event_outValid _ _, portsOf_event_outFrame _ _, fun r hr => ?reading, fun e he => ?error⟩
  case reading =>
    obtain ⟨-, rfl⟩ := (decodeBytes_eq_reading_iff w r).1 hr
    rw [portsOf_reading _ hr]
    exact ⟨rfl, rfl, rfl, rfl, negOf_iff w, rfl, isPositiveOf_eq_not_negOf w, rfl, rfl⟩
  case error =>
    have hne : e ≠ .malformedLength := by
      rintro rfl
      exact decodeBytes_ne_malformedLength w he
    obtain ⟨hlow, hhigh⟩ := errCodeOf_range hne
    rw [portsOf_error _ he]
    exact ⟨rfl, hlow, hhigh, rfl⟩

end Sys2Proof.Machine
end

section
/-! ## Reset (70_reset_and_hazards.md R210 to R212) -/

namespace Sys2Proof.Machine

theorem exec_reset (s : State) : exec .reset s = .next (resetBeat s) := rfl

/-- R211: nothing on its way out survives the reset beat. -/
theorem eq_noEvent_of_mem_resetBeat_pipe {s : State} {w : OutWord} (h : w ∈ (resetBeat s).pipe) : w = .noEvent := by
  rw [resetBeat_pipe] at h
  exact List.eq_of_mem_replicate h

/-- Settles O10: the reset beat, field by field. -/
theorem resetEmptiesTheBuffer : Obligations.ResetEmptiesTheBuffer := fun s => exec_reset s

/-- Settles O11: the step is the reset beat with its word consumed, whatever byte the word carries (`step_reset_beat`), and that
beat cancels the pipeline (R211). -/
theorem resetOverridesTheByte : Obligations.ResetOverridesTheByte := by
  intro s inValid b rest hin
  have hinput : (resetBeat s.consume).input = rest := by
    rw [resetBeat_input, State.consume_input, hin, List.tail_cons]
  exact ⟨resetBeat s.consume, step_reset_beat hin, resetBeat_buf _, resetBeat_outs _, hinput,
    fun _ => eq_noEvent_of_mem_resetBeat_pipe⟩

end Sys2Proof.Machine
end
